-- ==== Sys2Proof/Word.lean ====
section
/-! DEFINITION. The word types of the CHIP-8 core (00_scope.md rules R4, R8): everything is unsigned. -/

namespace Sys2Proof

/-- An 8-bit value: a general register, a timer, a memory cell, the immediate `kk`. -/
abbrev Byte := BitVec 8

/-- A 16-bit value: an opcode, `pc`, `I`, a stack entry. -/
abbrev Word := BitVec 16

/-- A register number, the 4-bit field `x` or `y` (R62). -/
abbrev Reg := BitVec 4

/-- The 12-bit address immediate `nnn` (R62). -/
abbrev Imm12 := BitVec 12

/-- The 4-bit sprite height `n` (R62). -/
abbrev Nibble := BitVec 4

end Sys2Proof
end

