-- ==== Sys2Proof/Syntax.lean ====
section
/-! DEFINITION. The instructions of the CHIP-8 core: one constructor per row of 30_encoding.md rule R64, in the
table's order, with the operands of its format (rules R61, R62). -/

namespace Sys2Proof

/-- An instruction; the operand types admit exactly the values of the encoded fields. -/
inductive Instr where
  /-- `00E0` clear-screen (R130). -/
  | cls
  /-- `00EE` return (R90). -/
  | ret
  /-- `1nnn` jump (R91). -/
  | jp (nnn : Imm12)
  /-- `2nnn` call (R92). -/
  | call (nnn : Imm12)
  /-- `3xkk` skip-eq-imm (R93). -/
  | seImm (x : Reg) (kk : Byte)
  /-- `4xkk` skip-ne-imm (R94). -/
  | sneImm (x : Reg) (kk : Byte)
  /-- `5xy0` skip-eq-reg (R95). -/
  | seReg (x y : Reg)
  /-- `6xkk` load-imm (R100). -/
  | ldImm (x : Reg) (kk : Byte)
  /-- `7xkk` add-imm (R101). -/
  | addImm (x : Reg) (kk : Byte)
  /-- `8xy0` assign (R102). -/
  | ldReg (x y : Reg)
  /-- `8xy1` OR (R103). -/
  | orReg (x y : Reg)
  /-- `8xy2` AND (R104). -/
  | andReg (x y : Reg)
  /-- `8xy3` XOR (R105). -/
  | xorReg (x y : Reg)
  /-- `8xy4` add-with-carry (R106). -/
  | addReg (x y : Reg)
  /-- `8xy5` subtract-with-borrow (R107). -/
  | sub (x y : Reg)
  /-- `8xy6` shift-right (R108); `y` is encoded and ignored (R71). -/
  | shr (x y : Reg)
  /-- `8xy7` reverse-subtract (R109). -/
  | subn (x y : Reg)
  /-- `8xyE` shift-left (R110); `y` is encoded and ignored (R71). -/
  | shl (x y : Reg)
  /-- `9xy0` skip-ne-reg (R96). -/
  | sneReg (x y : Reg)
  /-- `Annn` load-index (R120). -/
  | ldI (nnn : Imm12)
  /-- `Bnnn` jump-plus-reg0 (R97). -/
  | jpV0 (nnn : Imm12)
  /-- `Cxkk` random-and (R113). -/
  | rnd (x : Reg) (kk : Byte)
  /-- `Dxyn` draw-sprite (R131). -/
  | drw (x y : Reg) (n : Nibble)
  /-- `Ex9E` skip-if-key (R135). -/
  | skp (x : Reg)
  /-- `ExA1` skip-if-not-key (R136). -/
  | sknp (x : Reg)
  /-- `Fx07` delay timer to register (R138). -/
  | ldFromDT (x : Reg)
  /-- `Fx0A` wait-for-key (R139). -/
  | ldKey (x : Reg)
  /-- `Fx15` register to delay timer (R140). -/
  | ldDT (x : Reg)
  /-- `Fx18` register to sound timer (R141). -/
  | ldST (x : Reg)
  /-- `Fx1E` add-to-index (R121). -/
  | addI (x : Reg)
  /-- `Fx29` font-char-address (R122). -/
  | ldFont (x : Reg)
  /-- `Fx33` store-BCD (R123). -/
  | ldBcd (x : Reg)
  /-- `Fx55` store-registers (R124). -/
  | stRegs (x : Reg)
  /-- `Fx65` load-registers (R125). -/
  | ldRegs (x : Reg)
  deriving DecidableEq, Repr

end Sys2Proof
end

