-- ==== Sys2Proof/WellFormed.lean ====
section
/-! DEFINITION. The opcode map of 30_encoding.md rule R64 as a table, and the check that a word is well formed: it
matches a row. The operand types of `Instr` leave no ill-formed instruction, so what can be ill formed is a word. -/

namespace Sys2Proof

/-- A row of rule R64: `op` is the row's instruction when `op & mask == want` (the table's "match"). -/
structure Row where
  pattern : String
  want : Word
  mask : Word
  deriving DecidableEq, Repr

/-- `op & mask == match` (R64). -/
def Row.accepts (r : Row) (op : Word) : Bool := op &&& r.mask == r.want

/-- Rows 1 to 9 of rule R64. -/
def opcodeRowsLow : List Row :=
  [⟨"00E0", 0x00E0, 0xFFFF⟩, ⟨"00EE", 0x00EE, 0xFFFF⟩, ⟨"1nnn", 0x1000, 0xF000⟩,
   ⟨"2nnn", 0x2000, 0xF000⟩, ⟨"3xkk", 0x3000, 0xF000⟩, ⟨"4xkk", 0x4000, 0xF000⟩,
   ⟨"5xy0", 0x5000, 0xF00F⟩, ⟨"6xkk", 0x6000, 0xF000⟩, ⟨"7xkk", 0x7000, 0xF000⟩]

/-- Rows 10 to 18 of rule R64: the register ALU family. -/
def opcodeRowsAlu : List Row :=
  [⟨"8xy0", 0x8000, 0xF00F⟩, ⟨"8xy1", 0x8001, 0xF00F⟩, ⟨"8xy2", 0x8002, 0xF00F⟩,
   ⟨"8xy3", 0x8003, 0xF00F⟩, ⟨"8xy4", 0x8004, 0xF00F⟩, ⟨"8xy5", 0x8005, 0xF00F⟩,
   ⟨"8xy6", 0x8006, 0xF00F⟩, ⟨"8xy7", 0x8007, 0xF00F⟩, ⟨"8xyE", 0x800E, 0xF00F⟩]

/-- Rows 19 to 25 of rule R64. -/
def opcodeRowsMid : List Row :=
  [⟨"9xy0", 0x9000, 0xF00F⟩, ⟨"Annn", 0xA000, 0xF000⟩, ⟨"Bnnn", 0xB000, 0xF000⟩,
   ⟨"Cxkk", 0xC000, 0xF000⟩, ⟨"Dxyn", 0xD000, 0xF000⟩, ⟨"Ex9E", 0xE09E, 0xF0FF⟩,
   ⟨"ExA1", 0xE0A1, 0xF0FF⟩]

/-- Rows 26 to 34 of rule R64: family 0xF. -/
def opcodeRowsHigh : List Row :=
  [⟨"Fx07", 0xF007, 0xF0FF⟩, ⟨"Fx0A", 0xF00A, 0xF0FF⟩, ⟨"Fx15", 0xF015, 0xF0FF⟩,
   ⟨"Fx18", 0xF018, 0xF0FF⟩, ⟨"Fx1E", 0xF01E, 0xF0FF⟩, ⟨"Fx29", 0xF029, 0xF0FF⟩,
   ⟨"Fx33", 0xF033, 0xF0FF⟩, ⟨"Fx55", 0xF055, 0xF0FF⟩, ⟨"Fx65", 0xF065, 0xF0FF⟩]

/-- The complete opcode map (R64), with the strict masks of rule R65. -/
def opcodeMap : List Row := opcodeRowsLow ++ opcodeRowsAlu ++ opcodeRowsMid ++ opcodeRowsHigh

/-- The check: a word that matches no row is an unknown opcode (R66). -/
def wellFormedWord (op : Word) : Bool := opcodeMap.any (fun r => r.accepts op)

/-- The pattern of an instruction's row in rule R64. -/
def Instr.pattern : Instr → String
  | .cls => "00E0"
  | .ret => "00EE"
  | .jp _ => "1nnn"
  | .call _ => "2nnn"
  | .seImm _ _ => "3xkk"
  | .sneImm _ _ => "4xkk"
  | .seReg _ _ => "5xy0"
  | .ldImm _ _ => "6xkk"
  | .addImm _ _ => "7xkk"
  | .ldReg _ _ => "8xy0"
  | .orReg _ _ => "8xy1"
  | .andReg _ _ => "8xy2"
  | .xorReg _ _ => "8xy3"
  | .addReg _ _ => "8xy4"
  | .sub _ _ => "8xy5"
  | .shr _ _ => "8xy6"
  | .subn _ _ => "8xy7"
  | .shl _ _ => "8xyE"
  | .sneReg _ _ => "9xy0"
  | .ldI _ => "Annn"
  | .jpV0 _ => "Bnnn"
  | .rnd _ _ => "Cxkk"
  | .drw _ _ _ => "Dxyn"
  | .skp _ => "Ex9E"
  | .sknp _ => "ExA1"
  | .ldFromDT _ => "Fx07"
  | .ldKey _ => "Fx0A"
  | .ldDT _ => "Fx15"
  | .ldST _ => "Fx18"
  | .addI _ => "Fx1E"
  | .ldFont _ => "Fx29"
  | .ldBcd _ => "Fx33"
  | .stRegs _ => "Fx55"
  | .ldRegs _ => "Fx65"

end Sys2Proof
end

