-- ==== Sys2Proof/Decode.lean ====
section
/-! DEFINITION. The decoder (30_encoding.md rules R62, R63, R72), total on every word and on every list of bytes, and
after it the encoder written from the rows of rule R64. -/

namespace Sys2Proof

/-- The top nibble `t = op[15:12]`, the instruction's family (R61, R63). -/
def opFamily (op : Word) : Nibble := op.extractLsb' 12 4
/-- `x = op[11:8]` (R62). -/
def opX (op : Word) : Reg := op.extractLsb' 8 4
/-- `y = op[7:4]` (R62). -/
def opY (op : Word) : Reg := op.extractLsb' 4 4
/-- `n = op[3:0]` (R62). -/
def opN (op : Word) : Nibble := op.extractLsb' 0 4
/-- `kk = op[7:0]` (R62). -/
def opKK (op : Word) : Byte := op.extractLsb' 0 8
/-- `nnn = op[11:0]` (R62). -/
def opNNN (op : Word) : Imm12 := op.extractLsb' 0 12

/-- Family 0x0 of rule R72: the whole word decides (strict, R65). -/
def decodeFamily0 (op : Word) : Option Instr :=
  if op = 0x00E0#16 then some .cls
  else if op = 0x00EE#16 then some .ret
  else none

/-- Family 0x8 of rule R72: the low nibble decides. -/
def decodeFamily8 (x y : Reg) (n : Nibble) : Option Instr :=
  if n = 0x0#4 then some (.ldReg x y)
  else if n = 0x1#4 then some (.orReg x y)
  else if n = 0x2#4 then some (.andReg x y)
  else if n = 0x3#4 then some (.xorReg x y)
  else if n = 0x4#4 then some (.addReg x y)
  else if n = 0x5#4 then some (.sub x y)
  else if n = 0x6#4 then some (.shr x y)
  else if n = 0x7#4 then some (.subn x y)
  else if n = 0xE#4 then some (.shl x y)
  else none

/-- Family 0xE of rule R72: the low byte decides. -/
def decodeFamilyE (x : Reg) (kk : Byte) : Option Instr :=
  if kk = 0x9E#8 then some (.skp x)
  else if kk = 0xA1#8 then some (.sknp x)
  else none

/-- Family 0xF of rule R72: the low byte decides. -/
def decodeFamilyF (x : Reg) (kk : Byte) : Option Instr :=
  if kk = 0x07#8 then some (.ldFromDT x)
  else if kk = 0x0A#8 then some (.ldKey x)
  else if kk = 0x15#8 then some (.ldDT x)
  else if kk = 0x18#8 then some (.ldST x)
  else if kk = 0x1E#8 then some (.addI x)
  else if kk = 0x29#8 then some (.ldFont x)
  else if kk = 0x33#8 then some (.ldBcd x)
  else if kk = 0x55#8 then some (.stRegs x)
  else if kk = 0x65#8 then some (.ldRegs x)
  else none

/-- The decoder of rule R72: `none` is `Unknown`. A pure function of the word (R63, R83). -/
def decode (op : Word) : Option Instr :=
  let t := opFamily op
  if t = 0x0#4 then decodeFamily0 op
  else if t = 0x1#4 then some (.jp (opNNN op))
  else if t = 0x2#4 then some (.call (opNNN op))
  else if t = 0x3#4 then some (.seImm (opX op) (opKK op))
  else if t = 0x4#4 then some (.sneImm (opX op) (opKK op))
  else if t = 0x5#4 then (if opN op = 0x0#4 then some (.seReg (opX op) (opY op)) else none)
  else if t = 0x6#4 then some (.ldImm (opX op) (opKK op))
  else if t = 0x7#4 then some (.addImm (opX op) (opKK op))
  else if t = 0x8#4 then decodeFamily8 (opX op) (opY op) (opN op)
  else if t = 0x9#4 then (if opN op = 0x0#4 then some (.sneReg (opX op) (opY op)) else none)
  else if t = 0xA#4 then some (.ldI (opNNN op))
  else if t = 0xB#4 then some (.jpV0 (opNNN op))
  else if t = 0xC#4 then some (.rnd (opX op) (opKK op))
  else if t = 0xD#4 then some (.drw (opX op) (opY op) (opN op))
  else if t = 0xE#4 then decodeFamilyE (opX op) (opKK op)
  else decodeFamilyF (opX op) (opKK op)

/-- An opcode word from its two bytes, `(hi << 8) | lo`: the byte at the lower address is bits 15 to 8 (R43). -/
def wordOfBytes (hi lo : Byte) : Word := hi.setWidth 16 <<< 8 ||| lo.setWidth 16

/-- Why bytes are no instruction. -/
inductive DecodeError where
  /-- The word matches no row of rule R64 (`UnknownOpcode`, R66). -/
  | unknownOpcode (op : Word)
  /-- Fewer than two bytes are left (R60: every instruction is two bytes). -/
  | tooShort
  deriving DecidableEq, Repr

/-- The decoder on bytes: the instruction and the bytes after it, or the reason there is none. -/
def decodeBytes : List Byte → Except DecodeError (Instr × List Byte)
  | hi :: lo :: rest =>
    match decode (wordOfBytes hi lo) with
    | some i => .ok (i, rest)
    | none => .error (.unknownOpcode (wordOfBytes hi lo))
  | _ => .error .tooShort

/-- The operand `x` at bits 11 to 8 (R61, R62). -/
def placeX (x : Reg) : Word := x.setWidth 16 <<< 8
/-- The operand `y` at bits 7 to 4 (R61, R62). -/
def placeY (y : Reg) : Word := y.setWidth 16 <<< 4

/-- The encoder: a row's match (R64) with the operands of its format placed in their bits (R61, R62). -/
def encode : Instr → Word
  | .cls => 0x00E0#16
  | .ret => 0x00EE#16
  | .jp nnn => 0x1000#16 ||| nnn.setWidth 16
  | .call nnn => 0x2000#16 ||| nnn.setWidth 16
  | .seImm x kk => 0x3000#16 ||| placeX x ||| kk.setWidth 16
  | .sneImm x kk => 0x4000#16 ||| placeX x ||| kk.setWidth 16
  | .seReg x y => 0x5000#16 ||| placeX x ||| placeY y
  | .ldImm x kk => 0x6000#16 ||| placeX x ||| kk.setWidth 16
  | .addImm x kk => 0x7000#16 ||| placeX x ||| kk.setWidth 16
  | .ldReg x y => 0x8000#16 ||| placeX x ||| placeY y
  | .orReg x y => 0x8001#16 ||| placeX x ||| placeY y
  | .andReg x y => 0x8002#16 ||| placeX x ||| placeY y
  | .xorReg x y => 0x8003#16 ||| placeX x ||| placeY y
  | .addReg x y => 0x8004#16 ||| placeX x ||| placeY y
  | .sub x y => 0x8005#16 ||| placeX x ||| placeY y
  | .shr x y => 0x8006#16 ||| placeX x ||| placeY y
  | .subn x y => 0x8007#16 ||| placeX x ||| placeY y
  | .shl x y => 0x800E#16 ||| placeX x ||| placeY y
  | .sneReg x y => 0x9000#16 ||| placeX x ||| placeY y
  | .ldI nnn => 0xA000#16 ||| nnn.setWidth 16
  | .jpV0 nnn => 0xB000#16 ||| nnn.setWidth 16
  | .rnd x kk => 0xC000#16 ||| placeX x ||| kk.setWidth 16
  | .drw x y n => 0xD000#16 ||| placeX x ||| placeY y ||| n.setWidth 16
  | .skp x => 0xE09E#16 ||| placeX x
  | .sknp x => 0xE0A1#16 ||| placeX x
  | .ldFromDT x => 0xF007#16 ||| placeX x
  | .ldKey x => 0xF00A#16 ||| placeX x
  | .ldDT x => 0xF015#16 ||| placeX x
  | .ldST x => 0xF018#16 ||| placeX x
  | .addI x => 0xF01E#16 ||| placeX x
  | .ldFont x => 0xF029#16 ||| placeX x
  | .ldBcd x => 0xF033#16 ||| placeX x
  | .stRegs x => 0xF055#16 ||| placeX x
  | .ldRegs x => 0xF065#16 ||| placeX x

/-- An instruction's two bytes, most significant first (R43, R60). -/
def encodeBytes (i : Instr) : List Byte := [(encode i).extractLsb' 8 8, (encode i).extractLsb' 0 8]

/-- A table row's word laid out as the hardware stores it: one 16-bit word, most significant byte at the lower
address (R43, R60); bits at and above `nbits` are 0. -/
def tableBytes (nbits w : Nat) : List Byte :=
  let op : Word := BitVec.ofNat 16 (w % 2 ^ nbits)
  [op.extractLsb' 8 8, op.extractLsb' 0 8]

/-- What the decoder reads from an instruction whose bits are `w`, numbered as the opcode table numbers them. -/
def decodeTableWord (nbits w : Nat) : Option Instr :=
  match decodeBytes (tableBytes nbits w) with
  | .ok (i, _) => some i
  | .error _ => none

end Sys2Proof
end

