-- ==== Sys2Proof/Config.lean ====
section
/-! DEFINITION. What the spec fixes for every CHIP-8 core (00_scope.md rule R4), and the one free value.
The two implementation parameters with a default, `FONT_BASE` and `FONT_TABLE`, stand in Machine/Font.lean. -/

namespace Sys2Proof.Config

/-- `MEM_SIZE` (R4): addresses 0x000 to 0xFFF. -/
def memSize : Nat := 4096

/-- `PROG_BASE` (R4): the load address and the reset value of `pc`. -/
def progBase : Nat := 0x200

/-- `PROG_MAX` (R4): the longest loadable program. -/
def progMax : Nat := memSize - progBase

/-- The byte `rnd` that `Cxkk` consumes when the host's choice is left open (00_scope.md R5, 42_register_alu.md
R113: a free input under no law). `freeRnd k` is the k-th byte consumed. It has no body, so nothing can be proved of
its value. DESIGN CHOICE, safe: log entry 1. -/
opaque freeRnd : Nat → Byte

end Sys2Proof.Config
end

