-- ==== Sys2Proof/Machine/State.lean ====
section
/-! DEFINITION. The state of the CHIP-8 core (10_state.md section 1), the conditions a step or a load can report
(60_exceptions.md rule R150), and the state after reset (10_state.md rule R26). -/

namespace Sys2Proof.Machine

/-- Memory (R20) as the cells that differ from the reset contents, addresses rising (`Memory.wf` in Ops.lean says
the canonical form): an address that is not listed reads as `resetByte` (Font.lean), the contents after reset. -/
abbrev Memory := List Host.Cell

/-- The video buffer (R22, R132): 32 rows of 64 one-bit cells, bit `c` of row `r` being the cell `video[r*64 + c]`.
DESIGN CHOICE, safe: log entry 11. -/
abbrev Video := Vector (BitVec 64) 32

/-- The whole state: the spec's entities (10_state.md section 1) and two fields of the model's own. -/
structure State where
  /-- General registers `V[0]` to `V[15]`; `V[15]` is `VF` (R10, R11). -/
  V : Vector Byte 16
  /-- Index register (R14). -/
  I : Word
  /-- Program counter (R12). -/
  pc : Word
  /-- Return stack, not part of memory (R15). -/
  stack : Vector Word 16
  /-- Stack pointer, an integer from 0 to 16 (R16). -/
  sp : Fin 17
  /-- Delay timer (R17). -/
  DT : Byte
  /-- Sound timer (R18). -/
  ST : Byte
  /-- Memory, 4096 bytes (R20). -/
  mem : Memory
  /-- Key state, written by the host (R21). -/
  keypad : Vector Bool 16
  /-- Video buffer (R22). -/
  video : Video
  /-- The keypad as the previous step sampled it (R23). -/
  keyprev : Vector Bool 16
  /-- The model's own: the byte `rnd` the host supplied with the step about to run (R7, R80), if it supplied one.
  DESIGN CHOICE, safe: log entry 1. -/
  rndIn : Option Byte
  /-- The model's own: how many `rnd` bytes have been consumed, the argument of `Config.freeRnd`.
  DESIGN CHOICE, safe: log entry 1. -/
  draws : Nat
  deriving DecidableEq, Repr

/-- The `kind` of an `OutOfBounds` condition, with the `count` that only a data access has (R150, R152). -/
inductive BoundsKind where
  /-- The fetch: `pc >= 0xFFF` (R81). -/
  | fetch
  /-- A data access of `count` bytes through `I` (R46). -/
  | data (count : Nat)
  /-- A key number above 15 (R137). -/
  | key
  deriving DecidableEq, Repr

/-- The five conditions of rule R150, each with its information and with `left`, the state it leaves (R155). A step
or a load that answers one has ended the run, but for the host's choice to go on from `left` after `unknownOpcode`
(R153, R168). DESIGN CHOICE, safe: log entry 5. -/
inductive Fault where
  /-- Code 1 `OutOfSpace`, raised by `load` of more than 3584 bytes (R151). Safe: the spec's own condition. -/
  | outOfSpace (left : State)
  /-- Code 2 `OutOfBounds`, raised by the fetch, by `Dxyn`, `Fx33`, `Fx55`, `Fx65` (data) and by `Ex9E`, `ExA1`
  (key); `addr` is the `pc`, the `I` or the `V[x]` at fault (R152). Safe: the spec's own condition. -/
  | outOfBounds (kind : BoundsKind) (addr : Word) (left : State)
  /-- Code 3 `UnknownOpcode`, raised by the decode; `op` is the word (R153). Safe: the spec's own condition. -/
  | unknownOpcode (op : Word) (left : State)
  /-- Code 4 `StackOverflow`, raised by `2nnn` with `sp = 16` (R154). Safe: the spec's own condition. -/
  | stackOverflow (left : State)
  /-- Code 5 `StackUnderflow`, raised by `00EE` with `sp = 0` (R154). Safe: the spec's own condition. -/
  | stackUnderflow (left : State)
  deriving DecidableEq, Repr

/-- Why an instruction has no meaning. No meaning of this model answers a refusal. -/
inductive Refusal where
  /-- Answered by `exec` alone, for an instruction that has no meaning yet; every instruction has one now. Safe. -/
  | notModelled (mnemonic : String)
  deriving DecidableEq, Repr

/-- The state after `reset()` (10_state.md R26, 70_reset_and_hazards.md R170). Memory lists nothing: it holds the
reset contents, zero with the font table. -/
def State.reset : State where
  V := Vector.replicate 16 0#8
  I := 0x0000#16
  pc := 0x0200#16
  stack := Vector.replicate 16 0x0000#16
  sp := 0
  DT := 0#8
  ST := 0#8
  mem := []
  keypad := Vector.replicate 16 false
  video := Vector.replicate 32 0#64
  keyprev := Vector.replicate 16 false
  rndIn := none
  draws := 0

end Sys2Proof.Machine
end

