-- ==== Sys2Proof/Machine/Font.lean ====
section
/-! DEFINITION. The two implementation parameters of 00_scope.md rule R5, `FONT_BASE` and `FONT_TABLE`, fixed at the
defaults the rule names, and the contents of memory after reset (10_state.md rule R26). -/

namespace Sys2Proof.Machine

/-- `FONT_BASE`, the default of rule R5. PRESUMED, unsafe: log entry 3. -/
def fontBase : Nat := 0x050

/-- The glyphs of the default `FONT_TABLE` (10_state.md R27), digits 0 to F, five bytes each, top row first.
PRESUMED, unsafe: log entry 4. -/
def glyphs : List (List Byte) :=
  [[0xF0, 0x90, 0x90, 0x90, 0xF0], [0x20, 0x60, 0x20, 0x20, 0x70],
   [0xF0, 0x10, 0xF0, 0x80, 0xF0], [0xF0, 0x10, 0xF0, 0x10, 0xF0],
   [0x90, 0x90, 0xF0, 0x10, 0x10], [0xF0, 0x80, 0xF0, 0x10, 0xF0],
   [0xF0, 0x80, 0xF0, 0x90, 0xF0], [0xF0, 0x10, 0x20, 0x40, 0x40],
   [0xF0, 0x90, 0xF0, 0x90, 0xF0], [0xF0, 0x90, 0xF0, 0x10, 0xF0],
   [0xF0, 0x90, 0xF0, 0x90, 0x90], [0xE0, 0x90, 0xE0, 0x90, 0xE0],
   [0xF0, 0x80, 0x80, 0x80, 0xF0], [0xE0, 0x90, 0x90, 0x90, 0xE0],
   [0xF0, 0x80, 0xF0, 0x80, 0xF0], [0xF0, 0x80, 0xF0, 0x80, 0x80]]

/-- `FONT_TABLE` (R27): the glyphs in order, 80 bytes. -/
def fontTable : List Byte := glyphs.flatten

/-- The byte at address `a` after reset (R26): the font table at `fontBase`, zero everywhere else. It is what an
address that memory does not list reads as. -/
def resetByte (a : Nat) : Byte :=
  if fontBase ≤ a then fontTable.getD (a - fontBase) 0#8 else 0#8

end Sys2Proof.Machine
end

