-- ==== Sys2Proof/Machine/Ops.lean ====
section
/-! DEFINITION. The named operations over memory, the stack, the program counter and the step's frame: fetch,
advance, key latch, and raising a condition (the spec's exceptions; 60_exceptions.md). -/

namespace Sys2Proof.Machine

/-! ### Memory (20_memory.md) -/

/-- `MemRead(a, 1)` (R8, R42); every rule checks the range before it reads (R46, R81). -/
def Memory.read : Memory → Nat → Byte
  | [], a => resetByte a
  | c :: m, a => if c.1 = a then c.2 else Memory.read m a

/-- The listed cells but those at address `a`. -/
def Memory.erase (m : Memory) (a : Nat) : Memory := m.filter (fun c => c.1 != a)

/-- A cell put before the first listed cell of a higher address. -/
def Memory.insert : Memory → Nat → Byte → Memory
  | [], a, b => [(a, b)]
  | c :: m, a, b => if a < c.1 then (a, b) :: c :: m else c :: Memory.insert m a b

/-- `MemWrite(a, 1, b)` (R8, R42): the cell takes the byte. A cell that holds its reset contents is not listed, so
that equal memories are equal lists. -/
def Memory.write (m : Memory) (a : Nat) (b : Byte) : Memory :=
  if b = resetByte a then m.erase a else (m.erase a).insert a b

/-- Single-byte writes at ascending addresses from `a` (R42). -/
def Memory.writeBytes (m : Memory) (a : Nat) : List Byte → Memory
  | [] => m
  | b :: bs => Memory.writeBytes (m.write a b) (a + 1) bs

/-- The canonical form: addresses rising and inside 0x000 to 0xFFF (R20), no cell listed at its reset contents. -/
abbrev Memory.wf (m : Memory) : Prop :=
  m.Pairwise (fun c d => c.1 < d.1) ∧ ∀ c ∈ m, c.1 < Config.memSize ∧ c.2 ≠ resetByte c.1

/-! ### Conditions (60_exceptions.md) -/

/-- `raise <Condition>(info)` (R8, R157): the step ends at once, its result is the condition, and the state is what
the lines already run have made it. There is no vector, no saved register and no change of mode. -/
def raise (condition : State → Fault) (s : State) : Host.Outcome State Fault Refusal :=
  .fault (condition s)

/-- The condition's numeric code (R150). -/
def Fault.code : Fault → Nat
  | .outOfSpace _ => 1
  | .outOfBounds _ _ _ => 2
  | .unknownOpcode _ _ => 3
  | .stackOverflow _ => 4
  | .stackUnderflow _ => 5

/-- The class "fatal" of rule R150: after it the host must end the run. -/
def Fault.fatal : Fault → Bool
  | .unknownOpcode _ _ => false
  | _ => true

/-- The state a condition leaves (R155). -/
def Fault.left : Fault → State
  | .outOfSpace s => s
  | .outOfBounds _ _ s => s
  | .unknownOpcode _ s => s
  | .stackOverflow s => s
  | .stackUnderflow s => s

/-- The same condition, its state changed. -/
def Fault.mapLeft (g : State → State) : Fault → Fault
  | .outOfSpace s => .outOfSpace (g s)
  | .outOfBounds k a s => .outOfBounds k a (g s)
  | .unknownOpcode op s => .unknownOpcode op (g s)
  | .stackOverflow s => .stackOverflow (g s)
  | .stackUnderflow s => .stackUnderflow (g s)

/-! ### The program counter and the stack -/

/-- `pc <- target` (R8). -/
def State.setPc (s : State) (target : Word) : State := { s with pc := target }

/-- `pc <- (pc + 2) mod 65536` (R82, R13). -/
def State.advance (s : State) : State := s.setPc (s.pc + 2#16)

/-- Undo the advance: while an instruction executes `pc = a + 2`, so this is `pc <- a` (R139). DEDUCED, safe: log
entry 13. -/
def State.hold (s : State) : State := s.setPc (s.pc - 2#16)

/-- `if c then pc <- (pc + 2) mod 65536` (R93 to R96, R135, R136). -/
def State.skipIf (s : State) (c : Bool) : State := if c then s.advance else s

/-- `stack[sp] <- w; sp <- sp + 1`, defined below the top of the stack (R92). -/
def State.push (s : State) (w : Word) (h : s.sp.val < 16) : State :=
  { s with stack := s.stack.set s.sp.val w h, sp := ⟨s.sp.val + 1, by omega⟩ }

/-- `sp <- sp - 1; pc <- stack[sp]` (R90), defined when the stack is not empty. The entry keeps its value (R15). -/
def State.popPc (s : State) (h : 0 < s.sp.val) : State :=
  { s with sp := ⟨s.sp.val - 1, by omega⟩, pc := s.stack[s.sp.val - 1]'(by omega) }

/-! ### Timers, index, memory and video as written by the instructions -/

/-- `I <- w`. -/
def State.setI (s : State) (w : Word) : State := { s with I := w }
/-- `DT <- b`. -/
def State.setDT (s : State) (b : Byte) : State := { s with DT := b }
/-- `ST <- b`. -/
def State.setST (s : State) (b : Byte) : State := { s with ST := b }
/-- The memory after an instruction's writes. -/
def State.setMem (s : State) (m : Memory) : State := { s with mem := m }
/-- The video buffer after an instruction's writes. -/
def State.setVideo (s : State) (v : Video) : State := { s with video := v }

/-! ### The random byte (42_register_alu.md R113) -/

/-- The byte `rnd` of this step: what the host supplied, else a free value. -/
def State.rndByte (s : State) : Byte := s.rndIn.getD (Config.freeRnd s.draws)

/-- One byte `rnd` has been consumed. -/
def State.countDraw (s : State) : State := { s with draws := s.draws + 1 }

/-- The host supplies `rnd` with the step (R7, R80). -/
def State.supplyRnd (s : State) (rnd : Byte) : State := { s with rndIn := some rnd }

/-! ### The frame of a step (40_step_fetch_decode.md) -/

/-- Fetch (R81): the big-endian word at `pc`, or `none` when `pc + 1 > 0xFFF`. -/
def fetch (s : State) : Option Word :=
  if s.pc.toNat + 1 > 0xFFF then none
  else some (wordOfBytes (s.mem.read s.pc.toNat) (s.mem.read (s.pc.toNat + 1)))

/-- `keyprev <- keypad`, the end of every step (R85). The byte `rnd` belongs to the one step, so it goes too (R80). -/
def State.latch (s : State) : State := { s with keyprev := s.keypad, rndIn := none }

/-- The end of a step on every path, conditions included (R80 step 6, R85). -/
def endStep : Host.Outcome State Fault Refusal → Host.Outcome State Fault Refusal
  | .next s => .next s.latch
  | .fault f => .fault (f.mapLeft State.latch)
  | .refused r => .refused r

/-- The result of a step whose fetch fails (R81, R152): `pc` is not advanced. -/
def fetchFails (s : State) : Host.Outcome State Fault Refusal :=
  endStep (raise (.outOfBounds .fetch s.pc) s)

/-- The result of a step whose word is unknown (R84, R153): `pc` has been advanced. -/
def unknownWord (op : Word) (s : State) : Host.Outcome State Fault Refusal :=
  endStep (raise (.unknownOpcode op) s.advance)

/-- A word's bytes stored where the next fetch reads them; nothing when that fetch fails. -/
def State.placeBytes (s : State) (bytes : List Byte) : State :=
  if s.pc.toNat + 1 > 0xFFF then s else s.setMem (s.mem.writeBytes s.pc.toNat bytes)

end Sys2Proof.Machine
end

