-- ==== Sys2Proof/Machine/Operands.lean ====
section
/-! DEFINITION. The operand forms: a general register named by a 4-bit field (10_state.md rule R10), the byte and
address immediates (30_encoding.md rule R62), the bytes reached through `I` with their range check (20_memory.md rule
R46, 43_index_memory.md rule R126), and a key named by a register (45_keypad_timers.md rule R137). -/

namespace Sys2Proof.Machine

/-- `V[x]` read (R8, R10). -/
def State.reg (s : State) (x : Reg) : Byte := s.V[x.toNat]'(by have := x.isLt; omega)

/-- `V[x] <- b` (R8, R10). -/
def State.setReg (s : State) (x : Reg) (b : Byte) : State :=
  { s with V := s.V.set x.toNat b (by have := x.isLt; omega) }

/-- `VF <- b` (R8). -/
def State.setVF (s : State) (b : Byte) : State := s.setReg 15#4 b

/-- `zext_16(nnn)` (R62). -/
def zext16 (nnn : Imm12) : Word := nnn.zeroExtend 16

/-- The effective address `I + i`, in unbounded arithmetic (R126). -/
def State.ea (s : State) (i : Nat) : Nat := s.I.toNat + i

/-- The range check of rule R46: `cnt` bytes from `I` lie inside memory, or `cnt` is 0. -/
def State.dataInRange (s : State) (cnt : Nat) : Bool := decide (cnt = 0 ∨ s.I.toNat + cnt - 1 ≤ 0xFFF)

/-- An access of `cnt` bytes through `I`: the check comes first, and a failing one changes nothing (R46, R126). -/
def State.accessing (s : State) (cnt : Nat) (access : State) : Host.Outcome State Fault Refusal :=
  if s.dataInRange cnt then .next access else raise (.outOfBounds (.data cnt) s.I) s

/-- `for i in 0 .. cnt - 1: V[i] <- MemRead(I + i, 1)` (R125), for at most 16 registers. -/
def State.loadRegs (s : State) : Nat → State
  | 0 => s
  | k + 1 => (s.loadRegs k).setReg (BitVec.ofNat 4 k) (s.mem.read (s.ea k))

/-- The bytes of `V[0]` to `V[cnt - 1]` (R124). -/
def State.regBytes (s : State) (cnt : Nat) : List Byte := s.V.toList.take cnt

/-- The key number in `V[x]`, when it names one of the 16 cells (R137). -/
def State.keyNumber (s : State) (x : Reg) : Option (Fin 16) :=
  if h : (s.reg x).toNat < 16 then some ⟨(s.reg x).toNat, h⟩ else none

/-- A skip on the key that `V[x]` names (R135, R136): `OutOfBounds(key)` when it names none, before anything else
(R137). The `addr` is `V[x]` zero-extended (log entry 5). -/
def State.skipOnKey (s : State) (x : Reg) (pressed : Bool) : Host.Outcome State Fault Refusal :=
  match s.keyNumber x with
  | some k => .next (s.skipIf (s.keypad[k] == pressed))
  | none => raise (.outOfBounds .key ((s.reg x).zeroExtend 16)) s

/-- The key numbers in ascending order. -/
def keyNumbers : List (Fin 16) := [0, 1, 2, 3, 4, 5, 6, 7, 8, 9, 10, 11, 12, 13, 14, 15]

/-- `keypad[k] == 1 and keyprev[k] == 0`: key `k` went down since the previous step (R139). -/
def State.newlyDown (s : State) (k : Fin 16) : Bool := s.keypad[k] && !s.keyprev[k]

/-- `min(new)`, or `none` when `new` is empty (R139). DESIGN CHOICE of the spec (D18): log entry 9. -/
def State.newKey (s : State) : Option (Fin 16) := keyNumbers.find? s.newlyDown

end Sys2Proof.Machine
end

