-- ==== Sys2Proof/Machine/Flags.lean ====
section
/-! DEFINITION. Every flag the core computes (10_state.md rule R11; the table E9 of 95_test_vectors.md), and the order
in which a result and its flag are written (42_register_alu.md rule R111). -/

namespace Sys2Proof.Machine

/-- A flag as the byte `VF` receives. -/
def flagByte (f : Bool) : Byte := if f then 1#8 else 0#8

/-- Carry-out of an addition: the unsigned sum exceeds 255 (R106). -/
def carry (a b : Byte) : Bool := decide (a.toNat + b.toNat > 255)

/-- Not-borrow of `a - b`: `a >= b`, equal operands included (R107, R109, R112). -/
def notBorrow (a b : Byte) : Bool := decide (a.toNat ≥ b.toNat)

/-- The bit a right shift moves out, bit 0 (R108). -/
def shiftedOutRight (a : Byte) : Bool := a.getLsbD 0

/-- The bit a left shift moves out, bit 7 (R110). -/
def shiftedOutLeft (a : Byte) : Bool := a.getLsbD 7

/-- `I + V[x] > 0xFFF` on the unreduced sum (R121). -/
def indexOverflow (i : Word) (b : Byte) : Bool := decide (i.toNat + b.toNat > 0xFFF)

/-- The result to `V[x]`, then the flag to `V[15]`, last (R111): with `x = 15` the flag survives. -/
def State.setResultFlag (s : State) (x : Reg) (result : Byte) (f : Bool) : State :=
  (s.setReg x result).setVF (flagByte f)

end Sys2Proof.Machine
end

