-- ==== Sys2Proof/Machine/Video.lean ====
section
/-! DEFINITION. The operations on the video buffer (44_display.md): the pixel at a column and a row, and the XOR drawing
of a sprite with per-pixel wrap and collision. -/

namespace Sys2Proof.Machine

/-- The cell of column `c` and row `r` (R132). -/
def Video.pixel (v : Video) (c : Fin 64) (r : Fin 32) : Bool := v[r].getLsbD c

/-- `video[r*64 + c] <- video[r*64 + c] ^ 1` (R131). -/
def Video.toggle (v : Video) (c : Fin 64) (r : Fin 32) : Video :=
  v.set r (v[r] ^^^ BitVec.twoPow 64 c)

/-- All cells clear (R130). -/
def Video.clear : Video := Vector.replicate 32 0#64

/-- The column of sprite column `col`, reduced modulo 64 (R131 point 3). -/
def wrapColumn (cx : Byte) (col : Nat) : Fin 64 := ⟨(cx.toNat + col) % 64, Nat.mod_lt _ (by omega)⟩

/-- The row of sprite row `row`, reduced modulo 32 (R131 point 3). -/
def wrapRow (cy : Byte) (row : Nat) : Fin 32 := ⟨(cy.toNat + row) % 32, Nat.mod_lt _ (by omega)⟩

/-- The body of the inner loop of rule R131: bit `7 - col` of the sprite byte is pixel `col` of the row; a 1 bit
toggles its cell and hits when the cell was set. The pair is the buffer and `hit`. -/
def drawPixel (cx cy b : Byte) (row : Nat) (vh : Video × Bool) (col : Nat) : Video × Bool :=
  if b.getLsbD (7 - col) then
    (vh.1.toggle (wrapColumn cx col) (wrapRow cy row),
     vh.2 || vh.1.pixel (wrapColumn cx col) (wrapRow cy row))
  else vh

/-- One sprite row of 8 pixels (R131). -/
def drawRow (cx cy b : Byte) (row : Nat) (vh : Video × Bool) : Video × Bool :=
  (List.range 8).foldl (drawPixel cx cy b row) vh

/-- The loops of rule R131 over `n` sprite rows read from memory at `addr`. -/
def drawSprite (m : Memory) (addr : Nat) (cx cy : Byte) (n : Nat) (v : Video) : Video × Bool :=
  (List.range n).foldl (fun vh row => drawRow cx cy (m.read (addr + row)) row vh) (v, false)

end Sys2Proof.Machine
end

