-- ==== Sys2Proof/Machine/Display.lean ====
section
/-! DEFINITION. The meanings of the display instructions (44_display.md). -/

namespace Sys2Proof.Machine

/-- `00E0` (R130). -/
def execCls (s : State) : Host.Outcome State Fault Refusal :=
  .next (s.setVideo Video.clear)

/-- What `Dxyn` draws and whether it hits, on coordinates read before `VF` is written (R131). -/
def State.sprite (s : State) (x y : Reg) (n : Nibble) : Video × Bool :=
  drawSprite s.mem (s.ea 0) (s.reg x) (s.reg y) n.toNat s.video

/-- `Dxyn` (R131): `VF` is always written, last. -/
def execDrw (x y : Reg) (n : Nibble) (s : State) : Host.Outcome State Fault Refusal :=
  s.accessing n.toNat ((s.setVideo (s.sprite x y n).1).setVF (flagByte (s.sprite x y n).2))

end Sys2Proof.Machine
end

