-- ==== Sys2Proof/Machine/IndexMemory.lean ====
section
/-! DEFINITION. The meanings of the index-register and memory instructions (43_index_memory.md). `I` is the same after
`Fx33`, `Fx55` and `Fx65` as before (R126). -/

namespace Sys2Proof.Machine

/-- `Annn` (R120). -/
def execLdI (nnn : Imm12) (s : State) : Host.Outcome State Fault Refusal :=
  .next (s.setI (zext16 nnn))

/-- `I <- (I + V[x]) mod 65536` (R121). -/
def State.addIndex (s : State) (b : Byte) : State := s.setI (s.I + b.zeroExtend 16)

/-- `Fx1E` (R121): `VF` is written only when the flag is 1 (`FX1E_CLEARS_VF = false`, log entry 7). -/
def execAddI (x : Reg) (s : State) : Host.Outcome State Fault Refusal :=
  .next (if indexOverflow s.I (s.reg x) then (s.addIndex (s.reg x)).setVF 1#8 else s.addIndex (s.reg x))

/-- `FONT_BASE + v * 5`, reduced modulo 65536 (R122). -/
def fontAddress (v : Byte) : Word := BitVec.ofNat 16 (fontBase + v.toNat * 5)

/-- `Fx29` (R122): the whole of `V[x]`, not masked to a digit. -/
def execLdFont (x : Reg) (s : State) : Host.Outcome State Fault Refusal :=
  .next (s.setI (fontAddress (s.reg x)))

/-- The hundreds, tens and units digits (R123). -/
def bcdDigits (v : Byte) : List Byte :=
  [BitVec.ofNat 8 (v.toNat / 100), BitVec.ofNat 8 (v.toNat / 10 % 10), BitVec.ofNat 8 (v.toNat % 10)]

/-- `Fx33` (R123). -/
def execLdBcd (x : Reg) (s : State) : Host.Outcome State Fault Refusal :=
  s.accessing 3 (s.setMem (s.mem.writeBytes (s.ea 0) (bcdDigits (s.reg x))))

/-- `Fx55` (R124): `x` is a count, registers `V[0]` to `V[x]`. -/
def execStRegs (x : Reg) (s : State) : Host.Outcome State Fault Refusal :=
  s.accessing (x.toNat + 1) (s.setMem (s.mem.writeBytes (s.ea 0) (s.regBytes (x.toNat + 1))))

/-- `Fx65` (R125). -/
def execLdRegs (x : Reg) (s : State) : Host.Outcome State Fault Refusal :=
  s.accessing (x.toNat + 1) (s.loadRegs (x.toNat + 1))

end Sys2Proof.Machine
end

