-- ==== Sys2Proof/Machine/KeypadTimers.lean ====
section
/-! DEFINITION. The meanings of the keypad and timer instructions (45_keypad_timers.md). -/

namespace Sys2Proof.Machine

/-- `Ex9E` (R135). -/
def execSkp (x : Reg) (s : State) : Host.Outcome State Fault Refusal :=
  s.skipOnKey x true

/-- `ExA1` (R136). -/
def execSknp (x : Reg) (s : State) : Host.Outcome State Fault Refusal :=
  s.skipOnKey x false

/-- `Fx07` (R138). -/
def execLdFromDT (x : Reg) (s : State) : Host.Outcome State Fault Refusal :=
  .next (s.setReg x s.DT)

/-- `Fx0A` (R139): the lowest new key, or a hold. -/
def execLdKey (x : Reg) (s : State) : Host.Outcome State Fault Refusal :=
  match s.newKey with
  | none => .next s.hold
  | some k => .next (s.setReg x (BitVec.ofNat 8 k.val))

/-- `Fx15` (R140). -/
def execLdDT (x : Reg) (s : State) : Host.Outcome State Fault Refusal :=
  .next (s.setDT (s.reg x))

/-- `Fx18` (R141). -/
def execLdST (x : Reg) (s : State) : Host.Outcome State Fault Refusal :=
  .next (s.setST (s.reg x))

end Sys2Proof.Machine
end

