-- ==== Sys2Proof/Machine/Step.lean ====
section
/-! DEFINITION. One step (40_step_fetch_decode.md rule R80): fetch, advance, decode, dispatch, execute, latch. -/

namespace Sys2Proof.Machine

/-- `step` of rule R80. The byte `rnd` is `State.rndIn` or, where the host leaves it open, a free value. -/
def step (s : State) : Host.Outcome State Fault Refusal :=
  match fetch s with
  | none => fetchFails s
  | some op =>
    match decode op with
    | none => unknownWord op s
    | some i => endStep (exec i s.advance)

/-- `s` with the instruction whose bits are `w` (numbered as the opcode table numbers them) stored where the next
fetch reads it; it stands for the host's `load` (log entry 2). -/
def State.withFetchWord (s : State) (nbits w : Nat) : State := s.placeBytes (tableBytes nbits w)

end Sys2Proof.Machine
end

