-- ==== Sys2Proof/Machine/HostActions.lean ====
section
/-! DEFINITION. The host agent's operations at the block boundary (00_scope.md rule R7; 60_exceptions.md rules R162 to
R166), each atomic and strictly between two steps (R6), and one transition over both agents. -/

namespace Sys2Proof.Machine

/-- `reset()` (70_reset_and_hazards.md R170, R171): the state of rule R26, whatever came before. `draws`, no state of
the core, is kept: resetting the core does not rewind the host's random source (log entry 1). -/
def State.hostReset (s : State) : State := { State.reset with draws := s.draws }

/-- `load(bytes)` (40_step_fetch_decode.md R88, R89): the length is checked before any byte is copied. -/
def load (bytes : List Byte) (s : State) : Host.Outcome State Fault Refusal :=
  if bytes.length > Config.progMax then raise .outOfSpace s
  else .next (s.setMem (s.mem.writeBytes Config.progBase bytes))

/-- `step(rnd)` (R80) with the byte the host supplies. -/
def stepWith (rnd : Byte) (s : State) : Host.Outcome State Fault Refusal := step (s.supplyRnd rnd)

/-- `set_key(k, b)` (R164). -/
def State.setKey (s : State) (k : Fin 16) (b : Bool) : State := { s with keypad := s.keypad.set k b }

/-- `if t > 0 then t <- t - 1` (R162). -/
def countDown (t : Byte) : Byte := if t.toNat > 0 then t - 1#8 else t

/-- `tick()` (R162): both timers in the same tick. -/
def State.tick (s : State) : State := { s with DT := countDown s.DT, ST := countDown s.ST }

/-- The host's read of a video cell (R165). -/
def State.readVideo (s : State) (c : Fin 64) (r : Fin 32) : Bool := s.video.pixel c r
/-- The host's read of the delay timer (R165). -/
def State.readDT (s : State) : Byte := s.DT
/-- The host's read of the sound timer (R165). -/
def State.readST (s : State) : Byte := s.ST

/-- A move of the host or of the core (R7); a read changes nothing and is no move (R165). -/
inductive Action where
  | reset
  | load (bytes : List Byte)
  | step (rnd : Byte)
  | setKey (k : Fin 16) (b : Bool)
  | tick
  deriving DecidableEq, Repr

/-- One move. -/
def act (a : Action) (s : State) : Host.Outcome State Fault Refusal :=
  match a with
  | .reset => .next s.hostReset
  | .load bytes => Sys2Proof.Machine.load bytes s
  | .step rnd => stepWith rnd s
  | .setKey k b => .next (s.setKey k b)
  | .tick => .next s.tick

/-- The host's policy "skip" (R84, R153): after `UnknownOpcode` it goes on from the state the condition left, with
`pc = a + 2`. The policy "halt" is to stop at the fault, as `Host.Core.run` does. -/
def skipUnknown : Host.Outcome State Fault Refusal → Host.Outcome State Fault Refusal
  | .fault (.unknownOpcode _ s) => .next s
  | o => o

/-- `k` steps of a host that skips unknown opcodes. -/
def runSkipping : Nat → State → Host.Outcome State Fault Refusal
  | 0, s => .next s
  | k + 1, s =>
    match skipUnknown (step s) with
    | .next t => runSkipping k t
    | o => o

/-- A schedule (R163): the moves one after another, stopping at the first condition. -/
def runActions : List Action → State → Host.Outcome State Fault Refusal
  | [], s => .next s
  | a :: as, s =>
    match act a s with
    | .next t => runActions as t
    | o => o

end Sys2Proof.Machine
end

