-- ==== Sys2Proof/Safety.lean ====
section
/-! DEFINITION. What counts as a good state and a good run, in the terms the statements use. -/

namespace Sys2Proof.Machine

/-- The invariant of the machine: memory in its canonical form, so that every listed address exists (R20); every stack
entry at most 0x1000, "every value a call can have pushed" (R90); and `pc` at most 0x10FE, the largest target of `Bnnn`
(R13). -/
abbrev State.Inv (s : State) : Prop :=
  s.mem.wf ∧ (∀ k : Fin 16, s.stack[k].toNat ≤ 0x1000) ∧ s.pc.toNat ≤ 0x10FE

/-- The states a host can bring the core into from reset: any schedule of moves, and going on after `UnknownOpcode`
(R153); a fatal condition ends the run (R158, R168). -/
inductive Reachable : State → Prop where
  | reset : Reachable State.reset
  | move {s t : State} (a : Action) : Reachable s → act a s = .next t → Reachable t
  | skip {s t : State} {op : Word} (rnd : Byte) :
      Reachable s → stepWith rnd s = .fault (.unknownOpcode op t) → Reachable t

/-- Instructions run in sequence as steps run them, each after its advance (R82), without fetch and latch. -/
def execSeq : List Instr → State → Host.Outcome State Fault Refusal
  | [], s => .next s
  | i :: is, s =>
    match exec i s.advance with
    | .next t => execSeq is t
    | o => o

/-- The general registers an instruction may write (R11, R28): its destination `x`, `VF` for a flag writer, and `V[0]`
to `V[x]` for `Fx65`. -/
def writesReg : Instr → Reg → Bool
  | .ldImm x _, r | .addImm x _, r | .ldReg x _, r | .orReg x _, r | .andReg x _, r | .xorReg x _, r
  | .rnd x _, r | .ldFromDT x, r | .ldKey x, r => r == x
  | .addReg x _, r | .sub x _, r | .shr x _, r | .subn x _, r | .shl x _, r => r == x || r == 15#4
  | .drw _ _ _, r | .addI _, r => r == 15#4
  | .ldRegs x, r => decide (r.toNat ≤ x.toNat)
  | .cls, _ | .ret, _ | .jp _, _ | .call _, _ | .seImm _ _, _ | .sneImm _ _, _ | .seReg _ _, _ | .sneReg _ _, _
  | .ldI _, _ | .jpV0 _, _ | .skp _, _ | .sknp _, _ | .ldDT _, _ | .ldST _, _ | .ldFont _, _ | .ldBcd _, _
  | .stRegs _, _ => false

/-- Where an instruction stores and how many bytes (R48): `Fx33` three, `Fx55` `x + 1`, at the effective address. -/
def storesAt (s : State) : Instr → Option (Nat × Nat)
  | .ldBcd _ => some (s.ea 0, 3)
  | .stRegs x => some (s.ea 0, x.toNat + 1)
  | .cls | .ret | .jp _ | .call _ | .seImm _ _ | .sneImm _ _ | .seReg _ _ | .ldImm _ _ | .addImm _ _ | .ldReg _ _
  | .orReg _ _ | .andReg _ _ | .xorReg _ _ | .addReg _ _ | .sub _ _ | .shr _ _ | .subn _ _ | .shl _ _ | .sneReg _ _
  | .ldI _ | .jpV0 _ | .rnd _ _ | .drw _ _ _ | .skp _ | .sknp _ | .ldFromDT _ | .ldKey _ | .ldDT _ | .ldST _
  | .addI _ | .ldFont _ | .ldRegs _ => none

/-- The bytes an instruction accesses through `I`, where it accesses any (R46, R48). -/
def dataCount : Instr → Option Nat
  | .drw _ _ n => some n.toNat
  | .ldBcd _ => some 3
  | .stRegs x | .ldRegs x => some (x.toNat + 1)
  | .cls | .ret | .jp _ | .call _ | .seImm _ _ | .sneImm _ _ | .seReg _ _ | .ldImm _ _ | .addImm _ _ | .ldReg _ _
  | .orReg _ _ | .andReg _ _ | .xorReg _ _ | .addReg _ _ | .sub _ _ | .shr _ _ | .subn _ _ | .shl _ _ | .sneReg _ _
  | .ldI _ | .jpV0 _ | .rnd _ _ | .skp _ | .sknp _ | .ldFromDT _ | .ldKey _ | .ldDT _ | .ldST _ | .addI _
  | .ldFont _ => none

/-- `pc` after an instruction that completes, fetched at `s.pc` in the state `s` (the table of R13). -/
def pcAfter (s : State) : Instr → Word
  | .jp nnn | .call nnn => nnn.setWidth 16
  | .ret => (s.stack[s.sp.val - 1]?).getD 0#16
  | .jpV0 nnn => (s.reg 0#4).setWidth 16 + nnn.setWidth 16
  | .seImm x kk => if s.reg x = kk then s.pc + 4#16 else s.pc + 2#16
  | .sneImm x kk => if s.reg x = kk then s.pc + 2#16 else s.pc + 4#16
  | .seReg x y => if s.reg x = s.reg y then s.pc + 4#16 else s.pc + 2#16
  | .sneReg x y => if s.reg x = s.reg y then s.pc + 2#16 else s.pc + 4#16
  | .skp x => if (s.keypad[(s.reg x).toNat]?).getD false then s.pc + 4#16 else s.pc + 2#16
  | .sknp x => if (s.keypad[(s.reg x).toNat]?).getD false then s.pc + 2#16 else s.pc + 4#16
  | .ldKey _ => if ∃ k : Fin 16, s.keypad[k] = true ∧ s.keyprev[k] = false then s.pc + 2#16 else s.pc
  | .cls | .ldImm _ _ | .addImm _ _ | .ldReg _ _ | .orReg _ _ | .andReg _ _ | .xorReg _ _ | .addReg _ _ | .sub _ _
  | .shr _ _ | .subn _ _ | .shl _ _ | .ldI _ | .rnd _ _ | .drw _ _ _ | .ldFromDT _ | .ldDT _ | .ldST _ | .addI _
  | .ldFont _ | .ldBcd _ | .stRegs _ | .ldRegs _ => s.pc + 2#16

/-- The sprite's bit over the cell of column `c` and row `r` (R131), in closed form: the cell lies `i` rows below and
`j` columns right of the start, both counted round the grid; bit `7 - j` of sprite byte `i` is its pixel. -/
def spriteBit (s : State) (x y : Reg) (n : Nibble) (c : Fin 64) (r : Fin 32) : Bool :=
  let i := (r.val + 32 - (s.reg y).toNat % 32) % 32
  let j := (c.val + 64 - (s.reg x).toNat % 64) % 64
  decide (i < n.toNat) && decide (j < 8) && (s.mem.read (s.I.toNat + i)).getLsbD (7 - j)

end Sys2Proof.Machine
end

