-- ==== Sys2Proof/Certificates/Slice0/Obligations.lean ====
section
/-! DEFINITION. The statements for the provers. `exec i s` runs an instruction in a state whose `pc` has already been
advanced past it (40_step_fetch_decode.md rule R82); `step` runs a whole step. `t = { s with V := t.V }` says that
nothing but the general registers differs between `s` and `t`. -/

open Sys2Proof Sys2Proof.Machine

/-! ### Encoding and decoding -/

/-- Every instruction, with every operand at every value its field admits, is what its word decodes to, and what its two
bytes decode to whatever follows them (R60 to R64). The assignment of patterns to operations is partly the spec's general
knowledge (log entry 6). -/
def Obligations.DecodeOfEncodeIsTheInstruction : Prop :=
  ∀ (i : Instr) (rest : List Byte),
    decode (encode i) = some i ∧ decodeBytes (encodeBytes i ++ rest) = .ok (i, rest)

/-- No two words decode to one instruction: the encoder gives back the word that was decoded, the ignored `y` field of the
shifts included (R64, R71). It rests on strict decode (R65, the spec's decision D2; log entry 7): a lax decoder would read
01E0 as `00E0`. -/
def Obligations.EncodeOfDecodeIsTheWord : Prop :=
  ∀ (op : Word) (i : Instr), decode op = some i → encode i = op

/-- The decoder is exactly the opcode map of R64: a word decodes exactly when it matches a row, and then the instruction's
pattern is the pattern of every row the word matches. -/
def Obligations.DecoderIsTheOpcodeMap : Prop :=
  ∀ op : Word, ((decode op).isSome = wellFormedWord op) ∧
    ∀ i, decode op = some i → ∀ r ∈ opcodeMap, r.accepts op = true → r.pattern = i.pattern

/-- The rows of the opcode map are mutually exclusive (R64): a word matches at most one. -/
def Obligations.OpcodeRowsAreExclusive : Prop :=
  ∀ (op : Word) (r q : Row), r ∈ opcodeMap → q ∈ opcodeMap → r.accepts op = true → q.accepts op = true → r = q

/-- The unknown words are exactly those the table of R66 lists, family by family (strict decode, the spec's decisions D2
and D3). -/
def Obligations.UnknownWordsAreThoseListed : Prop :=
  ∀ op : Word, decode op = none ↔
    (opFamily op = 0x0#4 ∧ op ≠ 0x00E0#16 ∧ op ≠ 0x00EE#16) ∨
    (opFamily op = 0x5#4 ∧ opN op ≠ 0#4) ∨
    (opFamily op = 0x8#4 ∧ (8 ≤ (opN op).toNat ∧ (opN op).toNat ≤ 0xD ∨ (opN op).toNat = 0xF)) ∨
    (opFamily op = 0x9#4 ∧ opN op ≠ 0#4) ∨
    (opFamily op = 0xE#4 ∧ opKK op ≠ 0x9E#8 ∧ opKK op ≠ 0xA1#8) ∨
    (opFamily op = 0xF#4 ∧ opKK op ∉ ([0x07#8, 0x0A#8, 0x15#8, 0x18#8, 0x1E#8, 0x29#8, 0x33#8, 0x55#8, 0x65#8] : List Byte))

/-- The words of the source's own examples (95_test_vectors.md E1 to E3) and at least one word of every family, a top
nibble (R9), decode as R64 writes them. The assignment of the patterns of `1ABC`, `2ABC`, `3A05`, `4A05`, `8AB7`, `E29E` and
`E2A1` to their operations is the spec's general knowledge (log entry 6, PRESUMED). -/
def Obligations.SampleWordsDecode : Prop :=
  decode 0x00E0#16 = some .cls ∧ decode 0x6A05#16 = some (.ldImm 0xA#4 0x05#8) ∧
  decode 0x7A02#16 = some (.addImm 0xA#4 0x02#8) ∧ decode 0xA300#16 = some (.ldI 0x300#12) ∧
  decode 0xF533#16 = some (.ldBcd 0x5#4) ∧
  decode 0x1ABC#16 = some (.jp 0xABC#12) ∧ decode 0x2ABC#16 = some (.call 0xABC#12) ∧
  decode 0x3A05#16 = some (.seImm 0xA#4 0x05#8) ∧ decode 0x4A05#16 = some (.sneImm 0xA#4 0x05#8) ∧
  decode 0x5AB0#16 = some (.seReg 0xA#4 0xB#4) ∧ decode 0x8AB7#16 = some (.subn 0xA#4 0xB#4) ∧
  decode 0x9AB0#16 = some (.sneReg 0xA#4 0xB#4) ∧ decode 0xB300#16 = some (.jpV0 0x300#12) ∧
  decode 0xCA0F#16 = some (.rnd 0xA#4 0x0F#8) ∧ decode 0xD125#16 = some (.drw 0x1#4 0x2#4 0x5#4) ∧
  decode 0xE29E#16 = some (.skp 0x2#4) ∧ decode 0xE2A1#16 = some (.sknp 0x2#4) ∧
  decode 0xF30A#16 = some (.ldKey 0x3#4)

/-! ### The step -/

/-- A step whose fetched word decodes runs the instruction: it fetches the two bytes at `pc` big-endian, advances `pc` by
2, executes, and at the end latches the keypad and drops the step's random byte, on a condition too. -/
def Obligations.StepRunsTheDecodedInstruction : Prop :=
  ∀ (s : State) (i : Instr), s.pc.toNat + 1 ≤ 0xFFF →
    decode (BitVec.ofNat 16 ((s.mem.read s.pc.toNat).toNat * 256 + (s.mem.read (s.pc.toNat + 1)).toNat)) = some i →
    step s = match exec i { s with pc := s.pc + 2#16 } with
      | .next t => .next { t with keyprev := t.keypad, rndIn := none }
      | .fault f => .fault (f.mapLeft fun t => { t with keyprev := t.keypad, rndIn := none })
      | .refused r => .refused r

/-- A fetch fails exactly when `pc + 1` is no address, and then the step reports `OutOfBounds(fetch, addr = pc)` and
changes nothing but the key latch (the spec's decision D4; `rndIn` is the model's input, log entry 1). -/
def Obligations.FetchPastMemoryEndIsOutOfBounds : Prop :=
  ∀ s : State, (s.pc.toNat + 1 > 0xFFF ↔ fetch s = none) ∧
    (s.pc.toNat + 1 > 0xFFF →
      step s = .fault (.outOfBounds .fetch s.pc { s with keyprev := s.keypad, rndIn := none }))

/-- A fetched word that is no instruction: the step reports `UnknownOpcode(op)`, `pc` has been advanced, nothing else has
changed but the key latch, and a host that skips goes on from there. -/
def Obligations.UnknownWordIsReportedAfterTheAdvance : Prop :=
  ∀ (s : State) (op : Word), fetch s = some op → decode op = none →
    step s = .fault (.unknownOpcode op { s with pc := s.pc + 2#16, keyprev := s.keypad, rndIn := none }) ∧
    skipUnknown (step s) = .next { s with pc := s.pc + 2#16, keyprev := s.keypad, rndIn := none }

/-- Every step ends with `keyprev <- keypad`, on every path, and no step changes the keypad (the spec's decision D17). -/
def Obligations.EveryStepLatchesTheKeypad : Prop :=
  ∀ s : State,
    (∀ t, step s = .next t → t.keyprev = s.keypad ∧ t.keypad = s.keypad) ∧
    (∀ f, step s = .fault f → f.left.keyprev = s.keypad ∧ f.left.keypad = s.keypad)

/-- No step is refused: every step returns ok or one condition (R87). -/
def Obligations.NoStepIsRefused : Prop :=
  ∀ (s : State) (r : Refusal), step s ≠ .refused r

/-- Conditions are precise (the table of R155, the spec's decision D5): after a failed fetch everything is unchanged, after
every other condition of a step `pc` is advanced and everything else is unchanged, but for the key latch; a step never
reports `OutOfSpace`. -/
def Obligations.ConditionsArePrecise : Prop :=
  ∀ (s : State) (f : Fault), step s = .fault f →
    f.code ≠ 1 ∧
    (s.pc.toNat ≥ 0xFFF → f.left = { s with keyprev := s.keypad, rndIn := none }) ∧
    (s.pc.toNat < 0xFFF → f.left = { s with pc := s.pc + 2#16, keyprev := s.keypad, rndIn := none })

/-- The conditions an instruction raises, exactly: `00EE` on an empty stack, `2nnn` on a full one, a data access outside
memory, a key number above 15; every other execution completes (R156). -/
def Obligations.InstructionsRaiseExactlyTheirCondition : Prop :=
  ∀ (i : Instr) (s : State) (f : Fault), exec i s = .fault f ↔
    (i = .ret ∧ s.sp.val = 0 ∧ f = .stackUnderflow s) ∨
    (∃ nnn, i = .call nnn ∧ s.sp.val = 16 ∧ f = .stackOverflow s) ∨
    (∃ cnt, dataCount i = some cnt ∧ 0 < cnt ∧ s.I.toNat + cnt - 1 > 0xFFF ∧ f = .outOfBounds (.data cnt) s.I s) ∨
    (∃ x, (i = .skp x ∨ i = .sknp x) ∧ (s.reg x).toNat > 15 ∧ f = .outOfBounds .key ((s.reg x).setWidth 16) s)

/-- How each instruction leaves `pc`, for every instruction, fetched at `s.pc` (the table of R13, whose arithmetic modulo
65536 is the spec's decision D26). -/
def Obligations.PcAfterEachInstruction : Prop :=
  ∀ (s t : State) (op : Word) (i : Instr), fetch s = some op → decode op = some i → step s = .next t →
    t.pc = pcAfter s i

/-! ### Control flow -/

/-- `00EE` pops the return address; on an empty stack it raises `StackUnderflow` and changes nothing (R90). -/
def Obligations.ReturnPopsTheStack : Prop :=
  ∀ s : State,
    (0 < s.sp.val → ∃ t, exec .ret s = .next t ∧ t = { s with sp := t.sp, pc := t.pc } ∧
      t.sp.val = s.sp.val - 1 ∧ ∃ h : t.sp.val < 16, t.pc = s.stack[t.sp.val]) ∧
    (s.sp.val = 0 → exec .ret s = .fault (.stackUnderflow s))

/-- `1nnn` puts `nnn`, zero-extended, into `pc` and changes nothing else (R91). -/
def Obligations.JumpLoadsThePc : Prop :=
  ∀ (nnn : Imm12) (s : State), ∃ t, exec (.jp nnn) s = .next t ∧ t = { s with pc := t.pc } ∧ t.pc.toNat = nnn.toNat

/-- `2nnn` pushes the return address and jumps; on a full stack it raises `StackOverflow` and changes nothing (R92, whose
check before the push is the spec's decision D5). -/
def Obligations.CallPushesTheReturnAddress : Prop :=
  ∀ (nnn : Imm12) (s : State),
    (s.sp.val < 16 → ∃ t, exec (.call nnn) s = .next t ∧ t = { s with stack := t.stack, sp := t.sp, pc := t.pc } ∧
      t.sp.val = s.sp.val + 1 ∧ t.pc.toNat = nnn.toNat ∧
      (∀ k : Fin 16, t.stack[k] = if k.val = s.sp.val then s.pc else s.stack[k])) ∧
    (s.sp.val = 16 → exec (.call nnn) s = .fault (.stackOverflow s))

/-- Calls and returns pair up (R98, derived there): `n` nested calls and then `n` returns come back to the address after
the outermost call, with the stack pointer as before, wherever the stack has room for them. Nothing else changes but the
`n` stack entries from `sp` up, which the calls used and the returns do not clear. -/
def Obligations.CallsAndReturnsPairUp : Prop :=
  ∀ (targets : List Imm12) (s : State), targets ≠ [] → s.sp.val + targets.length ≤ 16 →
    ∃ t, execSeq (targets.map Instr.call ++ List.replicate targets.length Instr.ret) s = .next t ∧
      t = { s with pc := s.pc + 2#16, stack := t.stack } ∧
      ∀ k : Fin 16, k.val < s.sp.val ∨ s.sp.val + targets.length ≤ k.val → t.stack[k] = s.stack[k]

/-- The register skips (R93 to R96) add 2 to `pc` exactly when their comparison holds, and change nothing else. -/
def Obligations.RegisterSkipsCompareAndSkip : Prop :=
  ∀ (x y : Reg) (kk : Byte) (s : State),
    exec (.seImm x kk) s = .next { s with pc := if s.reg x = kk then s.pc + 2#16 else s.pc } ∧
    exec (.sneImm x kk) s = .next { s with pc := if s.reg x ≠ kk then s.pc + 2#16 else s.pc } ∧
    exec (.seReg x y) s = .next { s with pc := if s.reg x = s.reg y then s.pc + 2#16 else s.pc } ∧
    exec (.sneReg x y) s = .next { s with pc := if s.reg x ≠ s.reg y then s.pc + 2#16 else s.pc }

/-- `Bnnn` jumps to `V[0] + nnn`, not reduced to 12 bits (R97, the spec's decision D26). -/
def Obligations.JumpPlusV0AddsV0 : Prop :=
  ∀ (nnn : Imm12) (s : State), ∃ t, exec (.jpV0 nnn) s = .next t ∧ t = { s with pc := t.pc } ∧
    t.pc.toNat = (s.reg 0#4).toNat + nnn.toNat

/-! ### Register loads and the ALU -/

/-- `6xkk` is the words `0x6000 | x << 8 | kk`; it loads `kk` into `V[x]`, `VF` like any register, and changes nothing
else (R100). -/
def Obligations.LoadImmediateWritesTheByte : Prop :=
  ∀ (x : Reg) (kk : Byte) (s : State),
    decode (0x6000#16 ||| x.setWidth 16 <<< 8 ||| kk.setWidth 16) = some (.ldImm x kk) ∧
    ∃ t, exec (.ldImm x kk) s = .next t ∧ t = { s with V := t.V } ∧
    ∀ r : Reg, t.reg r = if r = x then kk else s.reg r

/-- `7xkk` is the words `0x7000 | x << 8 | kk`; it adds `kk` to `V[x]` modulo 256 and writes no flag (R101). -/
def Obligations.AddImmediateWrapsWithoutFlag : Prop :=
  ∀ (x : Reg) (kk : Byte) (s : State),
    decode (0x7000#16 ||| x.setWidth 16 <<< 8 ||| kk.setWidth 16) = some (.addImm x kk) ∧
    ∃ t, exec (.addImm x kk) s = .next t ∧ t = { s with V := t.V } ∧
    (t.reg x).toNat = ((s.reg x).toNat + kk.toNat) % 256 ∧ ∀ r : Reg, r ≠ x → t.reg r = s.reg r

/-- `8xy0` to `8xy3` write assign, OR, AND and XOR, bit by bit, into `V[x]` alone; they write no flag (the spec's decision
D11). -/
def Obligations.AssignAndLogicWriteNoFlag : Prop :=
  ∀ (x y : Reg) (s : State),
    (∃ t, exec (.ldReg x y) s = .next t ∧ t = { s with V := t.V } ∧
      ∀ r : Reg, t.reg r = if r = x then s.reg y else s.reg r) ∧
    (∃ t, exec (.orReg x y) s = .next t ∧ t = { s with V := t.V } ∧ (∀ r : Reg, r ≠ x → t.reg r = s.reg r) ∧
      ∀ k : Nat, (t.reg x).getLsbD k = ((s.reg x).getLsbD k || (s.reg y).getLsbD k)) ∧
    (∃ t, exec (.andReg x y) s = .next t ∧ t = { s with V := t.V } ∧ (∀ r : Reg, r ≠ x → t.reg r = s.reg r) ∧
      ∀ k : Nat, (t.reg x).getLsbD k = ((s.reg x).getLsbD k && (s.reg y).getLsbD k)) ∧
    (∃ t, exec (.xorReg x y) s = .next t ∧ t = { s with V := t.V } ∧ (∀ r : Reg, r ≠ x → t.reg r = s.reg r) ∧
      ∀ k : Nat, (t.reg x).getLsbD k = ((s.reg x).getLsbD k ^^ (s.reg y).getLsbD k))

/-- `8xy4`: the sum modulo 256 in `V[x]` and the carry in `VF`, which `VF` keeps when `x = 15` (R106;
that the flag is written last is the spec's decision D12, R111, log entry 15). -/
def Obligations.AddReportsTheCarry : Prop :=
  ∀ (x y : Reg) (s : State), ∃ t, exec (.addReg x y) s = .next t ∧ t = { s with V := t.V } ∧
    (x ≠ 15#4 → (t.reg x).toNat = ((s.reg x).toNat + (s.reg y).toNat) % 256) ∧
    (t.reg 15#4).toNat = (if (s.reg x).toNat + (s.reg y).toNat > 255 then 1 else 0) ∧
    ∀ r : Reg, r ≠ x → r ≠ 15#4 → t.reg r = s.reg r

/-- `8xy5`: the difference modulo 256 in `V[x]` and not-borrow in `VF`, equal operands giving 1 (R107,
conflict C3). That `VF` is the flag for `x = 15` too is the spec's decision D12 (R111, log entry 15). -/
def Obligations.SubtractReportsNoBorrow : Prop :=
  ∀ (x y : Reg) (s : State), ∃ t, exec (.sub x y) s = .next t ∧ t = { s with V := t.V } ∧
    (x ≠ 15#4 → (t.reg x).toNat = ((s.reg x).toNat + 256 - (s.reg y).toNat) % 256) ∧
    (t.reg 15#4).toNat = (if (s.reg x).toNat ≥ (s.reg y).toNat then 1 else 0) ∧
    ∀ r : Reg, r ≠ x → r ≠ 15#4 → t.reg r = s.reg r

/-- `8xy7`: the reverse difference modulo 256 in `V[x]` and not-borrow in `VF` (R109, conflict C3). That `VF` is the
flag for `x = 15` too is the spec's decision D12 (R111, log entry 15). -/
def Obligations.ReverseSubtractReportsNoBorrow : Prop :=
  ∀ (x y : Reg) (s : State), ∃ t, exec (.subn x y) s = .next t ∧ t = { s with V := t.V } ∧
    (x ≠ 15#4 → (t.reg x).toNat = ((s.reg y).toNat + 256 - (s.reg x).toNat) % 256) ∧
    (t.reg 15#4).toNat = (if (s.reg y).toNat ≥ (s.reg x).toNat then 1 else 0) ∧
    ∀ r : Reg, r ≠ x → r ≠ 15#4 → t.reg r = s.reg r

/-- `8xy6` and `8xyE` shift `V[x]` in place by one position, whatever `y` is, and put the bit shifted out into `VF` (the
spec's decision D10, log entry 8). That `VF` is the flag for `x = 15` too is the spec's decision D12 (R111, log entry 15). -/
def Obligations.ShiftsReportTheBitShiftedOut : Prop :=
  ∀ (x y : Reg) (s : State),
    (∃ t, exec (.shr x y) s = .next t ∧ t = { s with V := t.V } ∧
      (x ≠ 15#4 → (t.reg x).toNat = (s.reg x).toNat / 2) ∧ (t.reg 15#4).toNat = (s.reg x).toNat % 2 ∧
      ∀ r : Reg, r ≠ x → r ≠ 15#4 → t.reg r = s.reg r) ∧
    (∃ t, exec (.shl x y) s = .next t ∧ t = { s with V := t.V } ∧
      (x ≠ 15#4 → (t.reg x).toNat = (s.reg x).toNat * 2 % 256) ∧ (t.reg 15#4).toNat = (s.reg x).toNat / 128 ∧
      ∀ r : Reg, r ≠ x → r ≠ 15#4 → t.reg r = s.reg r)

/-- `Cxkk` writes `rnd & kk`: the byte the host supplied with the step, or else a byte on which no law holds (R113, the
spec's decision D16; log entry 1). One byte is consumed. -/
def Obligations.RandomAndMasksTheSuppliedByte : Prop :=
  ∀ (x : Reg) (kk : Byte) (s : State),
    (∃ t, exec (.rnd x kk) s = .next t ∧ t = { s with V := t.V, draws := s.draws + 1 } ∧
      (∀ k : Nat, kk.getLsbD k = false → (t.reg x).getLsbD k = false) ∧
      ∀ r : Reg, r ≠ x → t.reg r = s.reg r) ∧
    ∀ rnd : Byte, ∃ t, exec (.rnd x kk) (s.supplyRnd rnd) = .next t ∧ t.reg x = rnd &&& kk

/-! ### Index register and memory -/

/-- `Annn` is the words `0xA000 | nnn`; it loads `nnn`, zero-extended, into `I` and changes nothing else (R120). -/
def Obligations.LoadIndexWritesI : Prop :=
  ∀ (nnn : Imm12) (s : State),
    decode (0xA000#16 ||| nnn.setWidth 16) = some (.ldI nnn) ∧
    ∃ t, exec (.ldI nnn) s = .next t ∧ t = { s with I := t.I } ∧ t.I.toNat = nnn.toNat

/-- `Fx1E` adds `V[x]` to `I` modulo 65536, and sets `VF` to 1 exactly when the unreduced sum exceeds 0xFFF, leaving it
alone otherwise (R121, the spec's decision D13; log entry 7). -/
def Obligations.AddIndexFlagsTwelveBitOverflow : Prop :=
  ∀ (x : Reg) (s : State), ∃ t, exec (.addI x) s = .next t ∧ t = { s with I := t.I, V := t.V } ∧
    t.I.toNat = (s.I.toNat + (s.reg x).toNat) % 65536 ∧
    (∀ r : Reg, t.reg r = if r = 15#4 ∧ s.I.toNat + (s.reg x).toNat > 0xFFF then 1#8 else s.reg r)

/-- `Fx29` is the words `0xF029 | x << 8`; it points `I` at the glyph of the whole byte `V[x]`, five bytes a glyph from
`FONT_BASE` (R122); the statement names no value of `FONT_BASE`. -/
def Obligations.FontAddressIsFiveBytesAGlyph : Prop :=
  ∀ (x : Reg) (s : State),
    decode (0xF029#16 ||| x.setWidth 16 <<< 8) = some (.ldFont x) ∧
    ∃ t, exec (.ldFont x) s = .next t ∧ t = { s with I := t.I } ∧
    t.I.toNat = (fontBase + (s.reg x).toNat * 5) % 65536

/-- `Fx33` stores the three decimal digits of `V[x]` at `I`, `I + 1`, `I + 2` and nothing else; when those are not all in
memory it raises `OutOfBounds` and stores nothing (R123). -/
def Obligations.StoreBcdStoresThreeDigits : Prop :=
  ∀ (x : Reg) (s : State),
    (s.I.toNat + 2 ≤ 0xFFF → ∃ t, exec (.ldBcd x) s = .next t ∧ t = { s with mem := t.mem } ∧
      (t.mem.read s.I.toNat).toNat = (s.reg x).toNat / 100 ∧
      (t.mem.read (s.I.toNat + 1)).toNat = (s.reg x).toNat / 10 % 10 ∧
      (t.mem.read (s.I.toNat + 2)).toNat = (s.reg x).toNat % 10 ∧
      ∀ a, a < s.I.toNat ∨ s.I.toNat + 2 < a → t.mem.read a = s.mem.read a) ∧
    (s.I.toNat + 2 > 0xFFF → exec (.ldBcd x) s = .fault (.outOfBounds (.data 3) s.I s))

/-- `Fx55` stores `V[0]` to `V[x]` at `I` to `I + x` and nothing else; when those are not all in memory it raises
`OutOfBounds` and stores nothing; `I` is unchanged (R124). -/
def Obligations.StoreRegistersStoresABlock : Prop :=
  ∀ (x : Reg) (s : State),
    (s.I.toNat + x.toNat ≤ 0xFFF → ∃ t, exec (.stRegs x) s = .next t ∧ t = { s with mem := t.mem } ∧
      (∀ r : Reg, r.toNat ≤ x.toNat → t.mem.read (s.I.toNat + r.toNat) = s.reg r) ∧
      ∀ a, a < s.I.toNat ∨ s.I.toNat + x.toNat < a → t.mem.read a = s.mem.read a) ∧
    (s.I.toNat + x.toNat > 0xFFF → exec (.stRegs x) s = .fault (.outOfBounds (.data (x.toNat + 1)) s.I s))

/-- `Fx65` loads `V[0]` to `V[x]` from `I` to `I + x`, the registers above `x` unchanged; when those bytes are not all in
memory it raises `OutOfBounds` and loads nothing; `I` is unchanged (R125). -/
def Obligations.LoadRegistersLoadsABlock : Prop :=
  ∀ (x : Reg) (s : State),
    (s.I.toNat + x.toNat ≤ 0xFFF → ∃ t, exec (.ldRegs x) s = .next t ∧ t = { s with V := t.V } ∧
      ∀ r : Reg, t.reg r = if r.toNat ≤ x.toNat then s.mem.read (s.I.toNat + r.toNat) else s.reg r) ∧
    (s.I.toNat + x.toNat > 0xFFF → exec (.ldRegs x) s = .fault (.outOfBounds (.data (x.toNat + 1)) s.I s))

/-- A block stored by `Fx55` and loaded by `Fx65` with the same `x` and `I` comes back, whatever happened to the registers
between the two. -/
def Obligations.StoreThenLoadRestoresRegisters : Prop :=
  ∀ (x : Reg) (s : State) (W : Vector Byte 16), s.I.toNat + x.toNat ≤ 0xFFF →
    ∃ t u, exec (.stRegs x) s = .next t ∧ exec (.ldRegs x) { t with V := W } = .next u ∧
      ∀ r : Reg, u.reg r = if r.toNat ≤ x.toNat then s.reg r else W[r.toNat]

/-- A byte stored by `Fx55` or `Fx33` is what the next fetch of its address reads, wherever the fetched word lies across the
stored bytes and their neighbours; and an instruction that stores nothing changes no fetch (R55): self-modifying code needs
no fence. The range checks are the spec's decision D6. -/
def Obligations.StoredBytesAreFetched : Prop :=
  (∀ (x : Reg) (s : State), s.I.toNat + x.toNat ≤ 0xFFF → ∃ t, exec (.stRegs x) s = .next t ∧
    ∀ p : Word, p.toNat + 1 ≤ 0xFFF →
      let byteAt a := if s.I.toNat ≤ a ∧ a ≤ s.I.toNat + x.toNat then s.reg (BitVec.ofNat 4 (a - s.I.toNat))
        else s.mem.read a
      fetch { t with pc := p } = some (wordOfBytes (byteAt p.toNat) (byteAt (p.toNat + 1)))) ∧
  (∀ (x : Reg) (s : State), s.I.toNat + 2 ≤ 0xFFF → ∃ t, exec (.ldBcd x) s = .next t ∧
    ∀ p : Word, p.toNat + 1 ≤ 0xFFF →
      let byteAt a := if a = s.I.toNat then BitVec.ofNat 8 ((s.reg x).toNat / 100)
        else if a = s.I.toNat + 1 then BitVec.ofNat 8 ((s.reg x).toNat / 10 % 10)
        else if a = s.I.toNat + 2 then BitVec.ofNat 8 ((s.reg x).toNat % 10)
        else s.mem.read a
      fetch { t with pc := p } = some (wordOfBytes (byteAt p.toNat) (byteAt (p.toNat + 1)))) ∧
  ∀ (i : Instr) (s t : State), storesAt s i = none → exec i s = .next t →
    ∀ p : Word, fetch { t with pc := p } = fetch { s with pc := p }

/-! ### Display -/

/-- `00E0` clears every cell and changes nothing else, `VF` included, and any sequence of instructions other than `Dxyn`
after it leaves every cell clear (R130). -/
def Obligations.ClearScreenClearsEveryCell : Prop :=
  decode 0x00E0#16 = some .cls ∧
  (∀ s : State, ∃ t, exec .cls s = .next t ∧ t = { s with video := t.video } ∧
    ∀ (c : Fin 64) (r : Fin 32), t.video.pixel c r = false) ∧
  ∀ (is : List Instr) (s t : State), (∀ i ∈ is, ∀ x y n, i ≠ .drw x y n) → execSeq (.cls :: is) s = .next t →
    ∀ (c : Fin 64) (r : Fin 32), t.video.pixel c r = false

/-- `Dxyn` XORs exactly the sprite's cells, each wrapped on the 64 by 32 grid, and sets `VF` to 1 exactly when a set cell
was cleared; sprite bytes outside memory raise `OutOfBounds` and change nothing (R131; the geometry is the spec's decision
D15, the bit order its general knowledge, log entry 6). -/
def Obligations.DrawXorsTheSprite : Prop :=
  ∀ (x y : Reg) (n : Nibble) (s : State),
    (n = 0#4 ∨ s.I.toNat + n.toNat - 1 ≤ 0xFFF → ∃ t, exec (.drw x y n) s = .next t ∧
      t = { s with video := t.video, V := t.V } ∧
      (∀ c r, t.video.pixel c r = (s.video.pixel c r ^^ spriteBit s x y n c r)) ∧
      (t.reg 15#4 = 0#8 ∨ t.reg 15#4 = 1#8) ∧
      (t.reg 15#4 = 1#8 ↔ ∃ c r, s.video.pixel c r = true ∧ t.video.pixel c r = false) ∧
      ∀ r : Reg, r ≠ 15#4 → t.reg r = s.reg r) ∧
    (n ≠ 0#4 → s.I.toNat + n.toNat - 1 > 0xFFF →
      exec (.drw x y n) s = .fault (.outOfBounds (.data n.toNat) s.I s))

/-- Drawing a sprite twice at one place restores the screen, and the second draw reports a collision exactly when the
sprite has a 1 bit over a cell that was clear before the first (R133, derived there). -/
def Obligations.DoubleDrawRestoresTheScreen : Prop :=
  ∀ (x y : Reg) (n : Nibble) (s : State), x ≠ 15#4 → y ≠ 15#4 → (n = 0#4 ∨ s.I.toNat + n.toNat - 1 ≤ 0xFFF) →
    ∃ t, execSeq [.drw x y n, .drw x y n] s = .next t ∧ t.video = s.video ∧
      (t.reg 15#4 = 1#8 ↔ ∃ c r, spriteBit s x y n c r = true ∧ s.video.pixel c r = false)

/-! ### Keypad and timers -/

/-- `Ex9E` and `ExA1` skip on the level of the key that `V[x]` names; a number above 15 raises `OutOfBounds(key)` and
changes nothing (R135 to R137, the check being the spec's decision D7). -/
def Obligations.KeySkipsTestTheNamedKey : Prop :=
  ∀ (x : Reg) (s : State),
    (∀ k : Fin 16, (s.reg x).toNat = k.val →
      exec (.skp x) s = .next { s with pc := if s.keypad[k] = true then s.pc + 2#16 else s.pc } ∧
      exec (.sknp x) s = .next { s with pc := if s.keypad[k] = false then s.pc + 2#16 else s.pc }) ∧
    (15 < (s.reg x).toNat →
      exec (.skp x) s = .fault (.outOfBounds .key ((s.reg x).setWidth 16) s) ∧
      exec (.sknp x) s = .fault (.outOfBounds .key ((s.reg x).setWidth 16) s))

/-- `Fx0A` completes when a key went down since the previous step, storing the lowest such key; otherwise it holds, `pc`
going back by 2 and nothing else changing (R139, the spec's decisions D17 and D18; log entries 9 and 13). -/
def Obligations.WaitForKeyTakesTheLowestNewKey : Prop :=
  ∀ (x : Reg) (s : State),
    (∀ k : Fin 16, s.keypad[k] = true → s.keyprev[k] = false →
      (∀ j : Fin 16, j < k → ¬(s.keypad[j] = true ∧ s.keyprev[j] = false)) →
      ∃ t, exec (.ldKey x) s = .next t ∧ t = { s with V := t.V } ∧ (t.reg x).toNat = k.val ∧
        ∀ r : Reg, r ≠ x → t.reg r = s.reg r) ∧
    ((∀ k : Fin 16, ¬(s.keypad[k] = true ∧ s.keyprev[k] = false)) →
      exec (.ldKey x) s = .next { s with pc := s.pc - 2#16 })

/-- A step on `Fx0A` with no new key is ok and changes nothing but the key latch: the same instruction is fetched next. -/
def Obligations.WaitingStepStaysAtTheInstruction : Prop :=
  ∀ (s : State) (op : Word) (x : Reg), fetch s = some op → decode op = some (.ldKey x) →
    (∀ k : Fin 16, ¬(s.keypad[k] = true ∧ s.keyprev[k] = false)) →
    step s = .next { s with keyprev := s.keypad, rndIn := none }

/-- `Fx07`, `Fx15` and `Fx18` copy the delay timer to `V[x]` and `V[x]` to the delay or the sound timer, and change nothing
else (R138, R140, R141). -/
def Obligations.TimerInstructionsCopyATimer : Prop :=
  ∀ (x : Reg) (s : State),
    (∃ t, exec (.ldFromDT x) s = .next t ∧ t = { s with V := t.V } ∧
      ∀ r : Reg, t.reg r = if r = x then s.DT else s.reg r) ∧
    exec (.ldDT x) s = .next { s with DT := s.reg x } ∧
    exec (.ldST x) s = .next { s with ST := s.reg x }

/-- No step changes a timer but a step of `Fx15` or `Fx18`, a step that reports a condition included (R142). -/
def Obligations.OnlyTimerWritesMoveTheTimers : Prop :=
  ∀ s : State,
    (∀ t, step s = .next t →
      (t.DT ≠ s.DT → ∃ op x, fetch s = some op ∧ decode op = some (.ldDT x)) ∧
      (t.ST ≠ s.ST → ∃ op x, fetch s = some op ∧ decode op = some (.ldST x))) ∧
    (∀ f, step s = .fault f → f.left.DT = s.DT ∧ f.left.ST = s.ST)

/-! ### Frames over all instructions -/

/-- An instruction that completes changes no general register but its destination, `VF` where it writes a flag, and `V[0]`
to `V[x]` for `Fx65` (the tables of R11 and R28). -/
def Obligations.RegisterFrame : Prop :=
  ∀ (i : Instr) (s t : State), exec i s = .next t → ∀ r : Reg, writesReg i r = false → t.reg r = s.reg r

/-- An instruction that completes leaves every byte of memory alone but the bytes it stores to, at the effective address
its meaning computes; a form that stores nothing leaves every byte alone (R48). -/
def Obligations.MemoryFrame : Prop :=
  ∀ (i : Instr) (s t : State), exec i s = .next t →
    match storesAt s i with
    | some (a, width) => ∀ k, k < a ∨ a + width ≤ k → t.mem.read k = s.mem.read k
    | none => ∀ k, t.mem.read k = s.mem.read k

/-- An instruction that completes changes no other state but what the writer table of R28 names for it. -/
def Obligations.SpecialRegisterFrame : Prop :=
  ∀ (i : Instr) (s t : State), exec i s = .next t →
    ((∀ nnn, i ≠ .ldI nnn) → (∀ x, i ≠ .addI x ∧ i ≠ .ldFont x) → t.I = s.I) ∧
    ((∀ nnn, i ≠ .call nnn) → t.stack = s.stack) ∧
    (i ≠ .ret → (∀ nnn, i ≠ .call nnn) → t.sp = s.sp) ∧
    ((∀ x, i ≠ .ldDT x) → t.DT = s.DT) ∧ ((∀ x, i ≠ .ldST x) → t.ST = s.ST) ∧
    (i ≠ .cls → (∀ x y n, i ≠ .drw x y n) → t.video = s.video) ∧
    t.keypad = s.keypad ∧ t.keyprev = s.keyprev ∧ t.rndIn = s.rndIn ∧
    ((∀ x kk, i ≠ .rnd x kk) → t.draws = s.draws)

/-! ### Noninterference -/

/-- No instruction reads the sound timer (R18): two states that differ only there step alike, and the difference is kept
unless the instruction is `Fx18`, which writes the same value in both. -/
def Obligations.SoundTimerIsNeverRead : Prop :=
  ∀ (s : State) (b : Byte),
    (∀ t, step s = .next t → ∃ c, step { s with ST := b } = .next { t with ST := c } ∧
      (c = b ∨ (c = t.ST ∧ ∃ op x, fetch s = some op ∧ decode op = some (.ldST x)))) ∧
    (∀ f, step s = .fault f → step { s with ST := b } = .fault (f.mapLeft fun l => { l with ST := b }))

/-- Only `Fx0A` reads `keyprev` (R23): a step of any other instruction, or of none, answers the same whatever it holds. -/
def Obligations.OnlyWaitForKeyReadsKeyprev : Prop :=
  ∀ (s : State) (kp : Vector Bool 16), (∀ op x, fetch s = some op → decode op ≠ some (.ldKey x)) →
    step { s with keyprev := kp } = step s

/-! ### Invariants -/

/-- Memory in canonical form, stack entries at most 0x1000, `pc` at most 0x10FE: true after reset. -/
def Obligations.ResetMeetsTheInvariant : Prop := State.reset.Inv

/-- Every step that completes keeps the invariant, from every state that meets it, and so does every step that reports a
condition. -/
def Obligations.StepKeepsTheInvariant : Prop :=
  ∀ s : State, s.Inv → (∀ t, step s = .next t → t.Inv) ∧ (∀ f, step s = .fault f → f.left.Inv)

/-- Every state a host can bring the core into from reset, by any schedule of resets, loads, steps, key writes and ticks,
going on after unknown opcodes, meets the invariant. -/
def Obligations.ReachableStatesMeetTheInvariant : Prop := ∀ s : State, Reachable s → s.Inv

/-- Every move of the host or of the core keeps the invariant, from every state that meets it: when it completes, and in the
state a condition leaves. That the host moves only between steps is log entry 10. -/
def Obligations.EveryMoveKeepsTheInvariant : Prop :=
  ∀ (s : State) (a : Action), s.Inv → (∀ t, act a s = .next t → t.Inv) ∧ (∀ f, act a s = .fault f → f.left.Inv)

/-! ### Reset, load and the other host actions -/

/-- After reset every register, stack entry, timer, key and pixel is 0, `pc` is 0x200, and memory is 0 but for the font
table at `FONT_BASE`, which lies in the reserved region; resetting is the same whatever came before (R26, R170, R171; the
clearing of `keyprev` is the spec's decision D24, `draws` is the model's, log entry 1; the font's place and bytes are the
spec's default parameters, log entries 3 and 4). -/
def Obligations.ResetLeavesTheListedValues : Prop :=
  (∀ r : Reg, State.reset.reg r = 0#8) ∧ State.reset.I = 0#16 ∧ State.reset.pc = 0x200#16 ∧
  State.reset.sp.val = 0 ∧ (∀ k : Fin 16, State.reset.stack[k] = 0#16) ∧ State.reset.DT = 0#8 ∧
  State.reset.ST = 0#8 ∧ (∀ k : Fin 16, State.reset.keypad[k] = false ∧ State.reset.keyprev[k] = false) ∧
  (∀ c r, State.reset.video.pixel c r = false) ∧
  fontTable.length = 80 ∧ fontBase + 80 ≤ 0x200 ∧
  (∀ i b, fontTable[i]? = some b → State.reset.mem.read (fontBase + i) = b) ∧
  (∀ a, a < fontBase ∨ fontBase + 80 ≤ a → State.reset.mem.read a = 0#8) ∧
  ∀ s : State, act .reset s = .next { State.reset with draws := s.draws }

/-- A load that fits copies the bytes verbatim to 0x200 upward and changes nothing else; bytes above the program keep their
value (R88, the spec's decision D27). -/
def Obligations.LoadCopiesTheBytes : Prop :=
  ∀ (bytes : List Byte) (s : State), bytes.length ≤ 3584 →
    ∃ t, load bytes s = .next t ∧ t = { s with mem := t.mem } ∧
      (∀ i b, bytes[i]? = some b → t.mem.read (0x200 + i) = b) ∧
      ∀ a, a < 0x200 ∨ 0x200 + bytes.length ≤ a → t.mem.read a = s.mem.read a

/-- A load longer than 3584 bytes fails with `OutOfSpace`, which is fatal, and changes nothing (R89). -/
def Obligations.OversizedLoadChangesNothing : Prop :=
  ∀ (bytes : List Byte) (s : State), bytes.length > 3584 →
    load bytes s = .fault (.outOfSpace s) ∧ (Fault.outOfSpace s).fatal = true

/-- A tick decrements each timer that is not 0, both at once, and changes nothing else (R162). -/
def Obligations.TickCountsBothTimersDown : Prop :=
  ∀ s : State, ∃ t, act .tick s = .next t ∧ t = { s with DT := t.DT, ST := t.ST } ∧
    t.DT.toNat = s.DT.toNat - 1 ∧ t.ST.toNat = s.ST.toNat - 1

/-- `set_key(k, b)` writes the one cell and changes nothing else (R164). -/
def Obligations.SetKeyWritesOneCell : Prop :=
  ∀ (k : Fin 16) (b : Bool) (s : State), ∃ t, act (.setKey k b) s = .next t ∧ t = { s with keypad := t.keypad } ∧
    ∀ j : Fin 16, t.keypad[j] = if j = k then b else s.keypad[j]

/-- A fetch of two zero bytes reports the unknown opcode 0 in every state; so with no program loaded a host that skips
unknown opcodes walks through zeroed memory two bytes a step, every word being the unknown opcode 0, until the fetch at 0x1000
fails (R174, derived there; the spec's decisions D3, D4 and, for the key latch, D17). -/
def Obligations.EmptyMemoryRunsOffTheEnd : Prop :=
  (∀ s : State, s.pc.toNat + 1 ≤ 0xFFF → s.mem.read s.pc.toNat = 0#8 → s.mem.read (s.pc.toNat + 1) = 0#8 →
    step s = .fault (.unknownOpcode 0#16 { s with pc := s.pc + 2#16, keyprev := s.keypad, rndIn := none })) ∧
  (∀ k, k ≤ 1792 → runSkipping k State.reset = .next { State.reset with pc := BitVec.ofNat 16 (0x200 + 2 * k) }) ∧
  (∀ k, k < 1792 → step { State.reset with pc := BitVec.ofNat 16 (0x200 + 2 * k) } =
    .fault (.unknownOpcode 0#16 { State.reset with pc := BitVec.ofNat 16 (0x202 + 2 * k) })) ∧
  runSkipping 1793 State.reset = .fault (.outOfBounds .fetch 0x1000#16 { State.reset with pc := 0x1000#16 })
end

