-- ==== Sys2Proof/Laws/Display.lean ====
section
/-! SUPPORT. What drawing a sprite does (44_display.md rule R131): no two of its pixels land on one cell, so the loops
toggle exactly the cells under a 1 bit, and hit exactly when one of those cells was set before. -/

namespace Sys2Proof.Machine

theorem pixel_toggle (v : Video) (c c' : Fin 64) (r r' : Fin 32) :
    (v.toggle c r).pixel c' r' = (v.pixel c' r' ^^ decide (c' = c ∧ r' = r)) := by
  unfold Video.toggle Video.pixel
  by_cases h : r' = r
  · subst h
    simp [Fin.ext_iff, eq_comm]
  · have : r.val ≠ r'.val := fun e => h (Fin.ext e.symm)
    simp [this, h]

theorem pixel_clear (c : Fin 64) (r : Fin 32) : Video.clear.pixel c r = false := by
  simp [Video.pixel, Video.clear]

theorem wrapColumn_inj {cx : Byte} {j k : Nat} (hj : j < 8) (hk : k < 8) (h : wrapColumn cx j = wrapColumn cx k) :
    j = k := by
  simp only [wrapColumn, Fin.mk.injEq] at h
  omega

theorem wrapRow_inj {cy : Byte} {j k : Nat} (hj : j < 32) (hk : k < 32) (h : wrapRow cy j = wrapRow cy k) :
    j = k := by
  simp only [wrapRow, Fin.mk.injEq] at h
  omega

/-- A 1 among the first `k` pixels of the sprite row `b` lies over column `c`. -/
def rowCovers (cx b : Byte) (k : Nat) (c : Fin 64) : Bool :=
  (List.range k).any fun col => b.getLsbD (7 - col) && decide (c = wrapColumn cx col)

/-- A 1 among the first `k` pixels of the sprite row `b` lies over a cell of row `r` set in `v`. -/
def rowHits (cx b : Byte) (v : Video) (r : Fin 32) (k : Nat) : Bool :=
  (List.range k).any fun col => b.getLsbD (7 - col) && v.pixel (wrapColumn cx col) r

theorem rowCovers_succ (cx b : Byte) (k : Nat) (c : Fin 64) :
    rowCovers cx b (k + 1) c = (rowCovers cx b k c || (b.getLsbD (7 - k) && decide (c = wrapColumn cx k))) := by
  simp [rowCovers, List.range_succ]

theorem rowHits_succ (cx b : Byte) (v : Video) (r : Fin 32) (k : Nat) :
    rowHits cx b v r (k + 1) = (rowHits cx b v r k || (b.getLsbD (7 - k) && v.pixel (wrapColumn cx k) r)) := by
  simp [rowHits, List.range_succ]

/-- The first `k` pixels never cover the column of pixel `k`. -/
theorem rowCovers_fresh (cx b : Byte) {k : Nat} (hk : k < 8) : rowCovers cx b k (wrapColumn cx k) = false := by
  simp only [rowCovers, List.any_eq_false, List.mem_range, Bool.and_eq_true, decide_eq_true_eq, not_and]
  intro col hc _ e
  have := wrapColumn_inj hk (by omega) e
  omega

/-- What the first `k` pixels of a sprite row do. -/
theorem drawPixels_spec (cx cy b : Byte) (row : Nat) (vh : Video × Bool) {k : Nat} (hk : k ≤ 8) :
    (∀ c r, ((List.range k).foldl (drawPixel cx cy b row) vh).1.pixel c r =
      (vh.1.pixel c r ^^ (decide (r = wrapRow cy row) && rowCovers cx b k c))) ∧
    ((List.range k).foldl (drawPixel cx cy b row) vh).2 = (vh.2 || rowHits cx b vh.1 (wrapRow cy row) k) := by
  induction k with
  | zero => simp [rowCovers, rowHits]
  | succ k ih =>
    obtain ⟨ihp, ihh⟩ := ih (by omega)
    simp only [List.range_succ, List.foldl_append, List.foldl_cons, List.foldl_nil]
    generalize (List.range k).foldl (drawPixel cx cy b row) vh = w at ihp ihh
    have fresh : w.1.pixel (wrapColumn cx k) (wrapRow cy row) =
        vh.1.pixel (wrapColumn cx k) (wrapRow cy row) := by
      simp [ihp, rowCovers_fresh cx b (show k < 8 by omega)]
    simp only [rowCovers_succ, rowHits_succ]
    unfold drawPixel
    cases b.getLsbD (7 - k)
    · simp [ihp, ihh]
    · refine ⟨fun c r => ?_, by simp [fresh, ihh, Bool.or_assoc]⟩
      simp only [if_true, pixel_toggle, ihp, Bool.xor_assoc, Bool.true_and]
      congr 1
      by_cases hr : r = wrapRow cy row
      · by_cases hc : c = wrapColumn cx k
        · simp [hr, hc, rowCovers_fresh cx b (show k < 8 by omega)]
        · simp [hr, hc]
      · simp [hr]

/-- A 1 bit of the sprite's first `n` rows lies over the cell of column `c` and row `r`. -/
def spriteCovers (m : Memory) (addr : Nat) (cx cy : Byte) (n : Nat) (c : Fin 64) (r : Fin 32) : Bool :=
  (List.range n).any fun row => decide (r = wrapRow cy row) && rowCovers cx (m.read (addr + row)) 8 c

theorem spriteCovers_succ (m : Memory) (addr : Nat) (cx cy : Byte) (n : Nat) (c : Fin 64) (r : Fin 32) :
    spriteCovers m addr cx cy (n + 1) c r = (spriteCovers m addr cx cy n c r ||
      (decide (r = wrapRow cy n) && rowCovers cx (m.read (addr + n)) 8 c)) := by
  simp [spriteCovers, List.range_succ]

/-- The first `n` rows never cover a cell of row `n`. -/
theorem spriteCovers_fresh (m : Memory) (addr : Nat) (cx cy : Byte) {n : Nat} (hn : n < 32) (c : Fin 64) :
    spriteCovers m addr cx cy n c (wrapRow cy n) = false := by
  simp only [spriteCovers, List.any_eq_false, List.mem_range, Bool.and_eq_true, decide_eq_true_eq, not_and]
  intro row hr e
  have := wrapRow_inj hn (by omega) e
  omega

theorem drawSprite_succ (m : Memory) (addr : Nat) (cx cy : Byte) (n : Nat) (v : Video) :
    drawSprite m addr cx cy (n + 1) v =
      drawRow cx cy (m.read (addr + n)) n (drawSprite m addr cx cy n v) := by
  simp [drawSprite, List.range_succ]

/-- What `drawSprite` draws: it toggles exactly the cells under a 1 bit of the sprite. -/
theorem drawSprite_pixel (m : Memory) (addr : Nat) (cx cy : Byte) {n : Nat} (hn : n ≤ 32) (v : Video)
    (c : Fin 64) (r : Fin 32) :
    (drawSprite m addr cx cy n v).1.pixel c r = (v.pixel c r ^^ spriteCovers m addr cx cy n c r) := by
  induction n with
  | zero => simp [drawSprite, spriteCovers]
  | succ n ih =>
    rw [drawSprite_succ, drawRow, (drawPixels_spec cx cy _ n _ (Nat.le_refl 8)).1, ih (by omega), Bool.xor_assoc,
      spriteCovers_succ]
    congr 1
    by_cases hr : r = wrapRow cy n
    · simp only [hr, spriteCovers_fresh m addr cx cy (show n < 32 by omega), Bool.false_xor, Bool.false_or]
    · simp [hr]

/-- What `drawSprite` reports: a hit exactly when a 1 bit of the sprite lies over a cell set before. -/
theorem drawSprite_hit (m : Memory) (addr : Nat) (cx cy : Byte) {n : Nat} (hn : n ≤ 32) (v : Video) :
    (drawSprite m addr cx cy n v).2 =
      (List.range n).any fun row => rowHits cx (m.read (addr + row)) v (wrapRow cy row) 8 := by
  induction n with
  | zero => simp [drawSprite]
  | succ n ih =>
    have same : rowHits cx (m.read (addr + n)) (drawSprite m addr cx cy n v).1 (wrapRow cy n) 8 =
        rowHits cx (m.read (addr + n)) v (wrapRow cy n) 8 := by
      simp only [rowHits, drawSprite_pixel m addr cx cy (show n ≤ 32 by omega),
        spriteCovers_fresh m addr cx cy (show n < 32 by omega), Bool.xor_false]
    rw [drawSprite_succ, drawRow, (drawPixels_spec cx cy _ n _ (Nat.le_refl 8)).2, ih (by omega), same]
    simp [List.range_succ]

end Sys2Proof.Machine
end

