-- ==== Sys2Proof/Laws/Memory.lean ====
section
/-! SUPPORT. The laws of memory: a read after a write, that a write leaves every other address alone, and that every
memory operation keeps the canonical form. -/

namespace Sys2Proof.Machine

theorem read_erase_same (m : Memory) (a : Nat) : (m.erase a).read a = resetByte a := by
  induction m with
  | nil => rfl
  | cons c m ih =>
    unfold Memory.erase at ih ⊢
    by_cases h : c.1 = a
    · simpa [List.filter_cons, h] using ih
    · simpa [List.filter_cons, h, Memory.read] using ih

theorem read_erase_other (m : Memory) {a k : Nat} (hk : k ≠ a) : (m.erase a).read k = m.read k := by
  induction m with
  | nil => rfl
  | cons c m ih =>
    unfold Memory.erase at ih ⊢
    by_cases h : c.1 = a
    · simpa [List.filter_cons, h, Memory.read, Ne.symm hk] using ih
    · simp [h, Memory.read, ih]

theorem erase_free (m : Memory) (a : Nat) : ∀ c ∈ m.erase a, c.1 ≠ a := by
  simp [Memory.erase]

theorem read_insert_same (m : Memory) (a : Nat) (b : Byte) (h : ∀ c ∈ m, c.1 ≠ a) :
    (m.insert a b).read a = b := by
  induction m with
  | nil => simp [Memory.insert, Memory.read]
  | cons c m ih =>
    have hc := h c (by simp)
    by_cases hlt : a < c.1
    · simp [Memory.insert, hlt, Memory.read]
    · simpa [Memory.insert, hlt, Memory.read, hc] using ih fun d hd => h d (by simp [hd])

theorem read_insert_other (m : Memory) {a k : Nat} (b : Byte) (hk : k ≠ a) :
    (m.insert a b).read k = m.read k := by
  induction m with
  | nil => simp [Memory.insert, Memory.read, Ne.symm hk]
  | cons c m ih =>
    by_cases hlt : a < c.1
    · simp [Memory.insert, hlt, Memory.read, Ne.symm hk]
    · simp [Memory.insert, hlt, Memory.read, ih]

/-- A read of the written address gives the byte written, whatever the memory. -/
theorem read_write_same (m : Memory) (a : Nat) (b : Byte) : (m.write a b).read a = b := by
  unfold Memory.write
  split
  · next h => rw [read_erase_same, h]
  · exact read_insert_same _ _ _ (erase_free m a)

/-- A write leaves every other address alone, whatever the memory. -/
theorem read_write_other (m : Memory) {a k : Nat} (b : Byte) (hk : k ≠ a) :
    (m.write a b).read k = m.read k := by
  unfold Memory.write
  split
  · exact read_erase_other m hk
  · rw [read_insert_other _ _ hk, read_erase_other m hk]

/-- Writes at ascending addresses: an address inside the range reads the byte written there. -/
theorem read_writeBytes_in (m : Memory) (a : Nat) (bs : List Byte) (j : Nat) (h : j < bs.length) :
    (m.writeBytes a bs).read (a + j) = bs[j] := by
  induction bs generalizing m a j with
  | nil => simp at h
  | cons b bs ih =>
    cases j with
    | zero =>
      have out : ∀ (m : Memory) (a k : Nat) (bs : List Byte), k < a → (m.writeBytes a bs).read k = m.read k := by
        intro m a k bs
        induction bs generalizing m a with
        | nil => simp [Memory.writeBytes]
        | cons b bs ih =>
          intro hk
          rw [Memory.writeBytes, ih _ _ (by omega), read_write_other _ _ (by omega)]
      simp [Memory.writeBytes, out _ _ _ _ (Nat.lt_succ_self a), read_write_same]
    | succ j =>
      have := ih (m.write a b) (a + 1) j (by simpa using h)
      simpa [Memory.writeBytes, Nat.add_assoc, Nat.add_comm, Nat.add_left_comm] using this

/-- Writes at ascending addresses leave every address outside the range alone. -/
theorem read_writeBytes_out (m : Memory) (a k : Nat) (bs : List Byte) (h : k < a ∨ a + bs.length ≤ k) :
    (m.writeBytes a bs).read k = m.read k := by
  induction bs generalizing m a with
  | nil => rfl
  | cons b bs ih =>
    rw [List.length_cons] at h
    rw [Memory.writeBytes, ih _ _ (by omega), read_write_other _ _ (by omega)]

theorem wf_nil : Memory.wf [] := by simp [Memory.wf]

theorem wf_erase {m : Memory} (h : m.wf) (a : Nat) : (m.erase a).wf :=
  ⟨h.1.filter _, fun c hc => h.2 c (List.mem_filter.1 hc).1⟩

theorem mem_insert {m : Memory} {a : Nat} {b : Byte} {c : Host.Cell} (h : c ∈ m.insert a b) :
    c = (a, b) ∨ c ∈ m := by
  induction m with
  | nil => simpa [Memory.insert] using h
  | cons d m ih =>
    unfold Memory.insert at h
    split at h
    · simpa using h
    · rcases List.mem_cons.1 h with rfl | h
      · simp
      · rcases ih h with h | h <;> simp [h]

theorem wf_insert {m : Memory} (h : m.wf) {a : Nat} {b : Byte} (hm : ∀ c ∈ m, c.1 ≠ a)
    (ha : a < Config.memSize) (hb : b ≠ resetByte a) : (m.insert a b).wf := by
  refine ⟨?_, fun c hc => ?_⟩
  · obtain ⟨hp, -⟩ := h
    induction m with
    | nil => simp [Memory.insert]
    | cons d m ih =>
      obtain ⟨hd, hp'⟩ := List.pairwise_cons.1 hp
      unfold Memory.insert
      split
      · next hlt =>
        refine List.pairwise_cons.2 ⟨fun c hc => ?_, hp⟩
        rcases List.mem_cons.1 hc with rfl | hc
        · exact hlt
        · exact Nat.lt_trans hlt (hd c hc)
      · next hlt =>
        refine List.pairwise_cons.2 ⟨fun c hc => ?_, ih (fun c hc => hm c (by simp [hc])) hp'⟩
        rcases mem_insert hc with rfl | hc
        · have := hm d (by simp)
          simp only
          omega
        · exact hd c hc
  · rcases mem_insert hc with rfl | hc
    · exact ⟨ha, hb⟩
    · exact h.2 c hc

/-- A write inside memory keeps the canonical form. -/
theorem wf_write {m : Memory} (h : m.wf) {a : Nat} (ha : a < Config.memSize) (b : Byte) : (m.write a b).wf := by
  unfold Memory.write
  split
  · exact wf_erase h a
  · next hb => exact wf_insert (wf_erase h a) (erase_free m a) ha hb

/-- Writes at ascending addresses inside memory keep the canonical form. -/
theorem wf_writeBytes {m : Memory} (h : m.wf) {a : Nat} {bs : List Byte} (ha : a + bs.length ≤ Config.memSize) :
    (m.writeBytes a bs).wf := by
  induction bs generalizing m a with
  | nil => exact h
  | cons b bs ih =>
    rw [List.length_cons] at ha
    exact ih (wf_write h (by omega) b) (by omega)

end Sys2Proof.Machine
end

