-- ==== Sys2Proof/Laws/State.lean ====
section
/-! SUPPORT. What each named update of the state writes, one lemma per field, so that no proof unfolds a record update. -/

namespace Sys2Proof.Machine

variable (s : State)

@[simp] theorem setPc_V (p : Word) : (s.setPc p).V = s.V := rfl
@[simp] theorem setPc_I (p : Word) : (s.setPc p).I = s.I := rfl
@[simp] theorem setPc_pc (p : Word) : (s.setPc p).pc = p := rfl
@[simp] theorem setPc_stack (p : Word) : (s.setPc p).stack = s.stack := rfl
@[simp] theorem setPc_sp (p : Word) : (s.setPc p).sp = s.sp := rfl
@[simp] theorem setPc_DT (p : Word) : (s.setPc p).DT = s.DT := rfl
@[simp] theorem setPc_ST (p : Word) : (s.setPc p).ST = s.ST := rfl
@[simp] theorem setPc_mem (p : Word) : (s.setPc p).mem = s.mem := rfl
@[simp] theorem setPc_keypad (p : Word) : (s.setPc p).keypad = s.keypad := rfl
@[simp] theorem setPc_video (p : Word) : (s.setPc p).video = s.video := rfl
@[simp] theorem setPc_keyprev (p : Word) : (s.setPc p).keyprev = s.keyprev := rfl
@[simp] theorem setPc_rndIn (p : Word) : (s.setPc p).rndIn = s.rndIn := rfl
@[simp] theorem setPc_draws (p : Word) : (s.setPc p).draws = s.draws := rfl
@[simp] theorem setPc_reg (p : Word) (r : Reg) : (s.setPc p).reg r = s.reg r := rfl

@[simp] theorem advance_V : s.advance.V = s.V := rfl
@[simp] theorem advance_I : s.advance.I = s.I := rfl
@[simp] theorem advance_pc : s.advance.pc = s.pc + 2#16 := rfl
@[simp] theorem advance_stack : s.advance.stack = s.stack := rfl
@[simp] theorem advance_sp : s.advance.sp = s.sp := rfl
@[simp] theorem advance_DT : s.advance.DT = s.DT := rfl
@[simp] theorem advance_ST : s.advance.ST = s.ST := rfl
@[simp] theorem advance_mem : s.advance.mem = s.mem := rfl
@[simp] theorem advance_keypad : s.advance.keypad = s.keypad := rfl
@[simp] theorem advance_video : s.advance.video = s.video := rfl
@[simp] theorem advance_keyprev : s.advance.keyprev = s.keyprev := rfl
@[simp] theorem advance_rndIn : s.advance.rndIn = s.rndIn := rfl
@[simp] theorem advance_draws : s.advance.draws = s.draws := rfl
@[simp] theorem advance_reg (r : Reg) : s.advance.reg r = s.reg r := rfl

@[simp] theorem hold_V : s.hold.V = s.V := rfl
@[simp] theorem hold_I : s.hold.I = s.I := rfl
@[simp] theorem hold_pc : s.hold.pc = s.pc - 2#16 := rfl
@[simp] theorem hold_stack : s.hold.stack = s.stack := rfl
@[simp] theorem hold_sp : s.hold.sp = s.sp := rfl
@[simp] theorem hold_DT : s.hold.DT = s.DT := rfl
@[simp] theorem hold_ST : s.hold.ST = s.ST := rfl
@[simp] theorem hold_mem : s.hold.mem = s.mem := rfl
@[simp] theorem hold_keypad : s.hold.keypad = s.keypad := rfl
@[simp] theorem hold_video : s.hold.video = s.video := rfl
@[simp] theorem hold_keyprev : s.hold.keyprev = s.keyprev := rfl
@[simp] theorem hold_rndIn : s.hold.rndIn = s.rndIn := rfl
@[simp] theorem hold_draws : s.hold.draws = s.draws := rfl
@[simp] theorem hold_reg (r : Reg) : s.hold.reg r = s.reg r := rfl

@[simp] theorem push_V (w : Word) (h : s.sp.val < 16) : (s.push w h).V = s.V := rfl
@[simp] theorem push_I (w : Word) (h : s.sp.val < 16) : (s.push w h).I = s.I := rfl
@[simp] theorem push_pc (w : Word) (h : s.sp.val < 16) : (s.push w h).pc = s.pc := rfl
@[simp] theorem push_stack (w : Word) (h : s.sp.val < 16) : (s.push w h).stack = s.stack.set s.sp.val w h := rfl
@[simp] theorem push_sp (w : Word) (h : s.sp.val < 16) : (s.push w h).sp = ⟨s.sp.val + 1, by omega⟩ := rfl
@[simp] theorem push_DT (w : Word) (h : s.sp.val < 16) : (s.push w h).DT = s.DT := rfl
@[simp] theorem push_ST (w : Word) (h : s.sp.val < 16) : (s.push w h).ST = s.ST := rfl
@[simp] theorem push_mem (w : Word) (h : s.sp.val < 16) : (s.push w h).mem = s.mem := rfl
@[simp] theorem push_keypad (w : Word) (h : s.sp.val < 16) : (s.push w h).keypad = s.keypad := rfl
@[simp] theorem push_video (w : Word) (h : s.sp.val < 16) : (s.push w h).video = s.video := rfl
@[simp] theorem push_keyprev (w : Word) (h : s.sp.val < 16) : (s.push w h).keyprev = s.keyprev := rfl
@[simp] theorem push_rndIn (w : Word) (h : s.sp.val < 16) : (s.push w h).rndIn = s.rndIn := rfl
@[simp] theorem push_draws (w : Word) (h : s.sp.val < 16) : (s.push w h).draws = s.draws := rfl
@[simp] theorem push_reg (w : Word) (h : s.sp.val < 16) (r : Reg) : (s.push w h).reg r = s.reg r := rfl

@[simp] theorem popPc_V (h : 0 < s.sp.val) : (s.popPc h).V = s.V := rfl
@[simp] theorem popPc_I (h : 0 < s.sp.val) : (s.popPc h).I = s.I := rfl
@[simp] theorem popPc_pc (h : 0 < s.sp.val) : (s.popPc h).pc = s.stack[s.sp.val - 1]'(by omega) := rfl
@[simp] theorem popPc_stack (h : 0 < s.sp.val) : (s.popPc h).stack = s.stack := rfl
@[simp] theorem popPc_sp (h : 0 < s.sp.val) : (s.popPc h).sp = ⟨s.sp.val - 1, by omega⟩ := rfl
@[simp] theorem popPc_DT (h : 0 < s.sp.val) : (s.popPc h).DT = s.DT := rfl
@[simp] theorem popPc_ST (h : 0 < s.sp.val) : (s.popPc h).ST = s.ST := rfl
@[simp] theorem popPc_mem (h : 0 < s.sp.val) : (s.popPc h).mem = s.mem := rfl
@[simp] theorem popPc_keypad (h : 0 < s.sp.val) : (s.popPc h).keypad = s.keypad := rfl
@[simp] theorem popPc_video (h : 0 < s.sp.val) : (s.popPc h).video = s.video := rfl
@[simp] theorem popPc_keyprev (h : 0 < s.sp.val) : (s.popPc h).keyprev = s.keyprev := rfl
@[simp] theorem popPc_rndIn (h : 0 < s.sp.val) : (s.popPc h).rndIn = s.rndIn := rfl
@[simp] theorem popPc_draws (h : 0 < s.sp.val) : (s.popPc h).draws = s.draws := rfl
@[simp] theorem popPc_reg (h : 0 < s.sp.val) (r : Reg) : (s.popPc h).reg r = s.reg r := rfl

@[simp] theorem setI_V (w : Word) : (s.setI w).V = s.V := rfl
@[simp] theorem setI_I (w : Word) : (s.setI w).I = w := rfl
@[simp] theorem setI_pc (w : Word) : (s.setI w).pc = s.pc := rfl
@[simp] theorem setI_stack (w : Word) : (s.setI w).stack = s.stack := rfl
@[simp] theorem setI_sp (w : Word) : (s.setI w).sp = s.sp := rfl
@[simp] theorem setI_DT (w : Word) : (s.setI w).DT = s.DT := rfl
@[simp] theorem setI_ST (w : Word) : (s.setI w).ST = s.ST := rfl
@[simp] theorem setI_mem (w : Word) : (s.setI w).mem = s.mem := rfl
@[simp] theorem setI_keypad (w : Word) : (s.setI w).keypad = s.keypad := rfl
@[simp] theorem setI_video (w : Word) : (s.setI w).video = s.video := rfl
@[simp] theorem setI_keyprev (w : Word) : (s.setI w).keyprev = s.keyprev := rfl
@[simp] theorem setI_rndIn (w : Word) : (s.setI w).rndIn = s.rndIn := rfl
@[simp] theorem setI_draws (w : Word) : (s.setI w).draws = s.draws := rfl
@[simp] theorem setI_reg (w : Word) (r : Reg) : (s.setI w).reg r = s.reg r := rfl

@[simp] theorem setDT_V (b : Byte) : (s.setDT b).V = s.V := rfl
@[simp] theorem setDT_I (b : Byte) : (s.setDT b).I = s.I := rfl
@[simp] theorem setDT_pc (b : Byte) : (s.setDT b).pc = s.pc := rfl
@[simp] theorem setDT_stack (b : Byte) : (s.setDT b).stack = s.stack := rfl
@[simp] theorem setDT_sp (b : Byte) : (s.setDT b).sp = s.sp := rfl
@[simp] theorem setDT_DT (b : Byte) : (s.setDT b).DT = b := rfl
@[simp] theorem setDT_ST (b : Byte) : (s.setDT b).ST = s.ST := rfl
@[simp] theorem setDT_mem (b : Byte) : (s.setDT b).mem = s.mem := rfl
@[simp] theorem setDT_keypad (b : Byte) : (s.setDT b).keypad = s.keypad := rfl
@[simp] theorem setDT_video (b : Byte) : (s.setDT b).video = s.video := rfl
@[simp] theorem setDT_keyprev (b : Byte) : (s.setDT b).keyprev = s.keyprev := rfl
@[simp] theorem setDT_rndIn (b : Byte) : (s.setDT b).rndIn = s.rndIn := rfl
@[simp] theorem setDT_draws (b : Byte) : (s.setDT b).draws = s.draws := rfl
@[simp] theorem setDT_reg (b : Byte) (r : Reg) : (s.setDT b).reg r = s.reg r := rfl

@[simp] theorem setST_V (b : Byte) : (s.setST b).V = s.V := rfl
@[simp] theorem setST_I (b : Byte) : (s.setST b).I = s.I := rfl
@[simp] theorem setST_pc (b : Byte) : (s.setST b).pc = s.pc := rfl
@[simp] theorem setST_stack (b : Byte) : (s.setST b).stack = s.stack := rfl
@[simp] theorem setST_sp (b : Byte) : (s.setST b).sp = s.sp := rfl
@[simp] theorem setST_DT (b : Byte) : (s.setST b).DT = s.DT := rfl
@[simp] theorem setST_ST (b : Byte) : (s.setST b).ST = b := rfl
@[simp] theorem setST_mem (b : Byte) : (s.setST b).mem = s.mem := rfl
@[simp] theorem setST_keypad (b : Byte) : (s.setST b).keypad = s.keypad := rfl
@[simp] theorem setST_video (b : Byte) : (s.setST b).video = s.video := rfl
@[simp] theorem setST_keyprev (b : Byte) : (s.setST b).keyprev = s.keyprev := rfl
@[simp] theorem setST_rndIn (b : Byte) : (s.setST b).rndIn = s.rndIn := rfl
@[simp] theorem setST_draws (b : Byte) : (s.setST b).draws = s.draws := rfl
@[simp] theorem setST_reg (b : Byte) (r : Reg) : (s.setST b).reg r = s.reg r := rfl

@[simp] theorem setMem_V (m : Memory) : (s.setMem m).V = s.V := rfl
@[simp] theorem setMem_I (m : Memory) : (s.setMem m).I = s.I := rfl
@[simp] theorem setMem_pc (m : Memory) : (s.setMem m).pc = s.pc := rfl
@[simp] theorem setMem_stack (m : Memory) : (s.setMem m).stack = s.stack := rfl
@[simp] theorem setMem_sp (m : Memory) : (s.setMem m).sp = s.sp := rfl
@[simp] theorem setMem_DT (m : Memory) : (s.setMem m).DT = s.DT := rfl
@[simp] theorem setMem_ST (m : Memory) : (s.setMem m).ST = s.ST := rfl
@[simp] theorem setMem_mem (m : Memory) : (s.setMem m).mem = m := rfl
@[simp] theorem setMem_keypad (m : Memory) : (s.setMem m).keypad = s.keypad := rfl
@[simp] theorem setMem_video (m : Memory) : (s.setMem m).video = s.video := rfl
@[simp] theorem setMem_keyprev (m : Memory) : (s.setMem m).keyprev = s.keyprev := rfl
@[simp] theorem setMem_rndIn (m : Memory) : (s.setMem m).rndIn = s.rndIn := rfl
@[simp] theorem setMem_draws (m : Memory) : (s.setMem m).draws = s.draws := rfl
@[simp] theorem setMem_reg (m : Memory) (r : Reg) : (s.setMem m).reg r = s.reg r := rfl

@[simp] theorem setVideo_V (v : Video) : (s.setVideo v).V = s.V := rfl
@[simp] theorem setVideo_I (v : Video) : (s.setVideo v).I = s.I := rfl
@[simp] theorem setVideo_pc (v : Video) : (s.setVideo v).pc = s.pc := rfl
@[simp] theorem setVideo_stack (v : Video) : (s.setVideo v).stack = s.stack := rfl
@[simp] theorem setVideo_sp (v : Video) : (s.setVideo v).sp = s.sp := rfl
@[simp] theorem setVideo_DT (v : Video) : (s.setVideo v).DT = s.DT := rfl
@[simp] theorem setVideo_ST (v : Video) : (s.setVideo v).ST = s.ST := rfl
@[simp] theorem setVideo_mem (v : Video) : (s.setVideo v).mem = s.mem := rfl
@[simp] theorem setVideo_keypad (v : Video) : (s.setVideo v).keypad = s.keypad := rfl
@[simp] theorem setVideo_video (v : Video) : (s.setVideo v).video = v := rfl
@[simp] theorem setVideo_keyprev (v : Video) : (s.setVideo v).keyprev = s.keyprev := rfl
@[simp] theorem setVideo_rndIn (v : Video) : (s.setVideo v).rndIn = s.rndIn := rfl
@[simp] theorem setVideo_draws (v : Video) : (s.setVideo v).draws = s.draws := rfl
@[simp] theorem setVideo_reg (v : Video) (r : Reg) : (s.setVideo v).reg r = s.reg r := rfl

@[simp] theorem countDraw_V : s.countDraw.V = s.V := rfl
@[simp] theorem countDraw_I : s.countDraw.I = s.I := rfl
@[simp] theorem countDraw_pc : s.countDraw.pc = s.pc := rfl
@[simp] theorem countDraw_stack : s.countDraw.stack = s.stack := rfl
@[simp] theorem countDraw_sp : s.countDraw.sp = s.sp := rfl
@[simp] theorem countDraw_DT : s.countDraw.DT = s.DT := rfl
@[simp] theorem countDraw_ST : s.countDraw.ST = s.ST := rfl
@[simp] theorem countDraw_mem : s.countDraw.mem = s.mem := rfl
@[simp] theorem countDraw_keypad : s.countDraw.keypad = s.keypad := rfl
@[simp] theorem countDraw_video : s.countDraw.video = s.video := rfl
@[simp] theorem countDraw_keyprev : s.countDraw.keyprev = s.keyprev := rfl
@[simp] theorem countDraw_rndIn : s.countDraw.rndIn = s.rndIn := rfl
@[simp] theorem countDraw_draws : s.countDraw.draws = s.draws + 1 := rfl
@[simp] theorem countDraw_reg (r : Reg) : s.countDraw.reg r = s.reg r := rfl

@[simp] theorem supplyRnd_V (b : Byte) : (s.supplyRnd b).V = s.V := rfl
@[simp] theorem supplyRnd_I (b : Byte) : (s.supplyRnd b).I = s.I := rfl
@[simp] theorem supplyRnd_pc (b : Byte) : (s.supplyRnd b).pc = s.pc := rfl
@[simp] theorem supplyRnd_stack (b : Byte) : (s.supplyRnd b).stack = s.stack := rfl
@[simp] theorem supplyRnd_sp (b : Byte) : (s.supplyRnd b).sp = s.sp := rfl
@[simp] theorem supplyRnd_DT (b : Byte) : (s.supplyRnd b).DT = s.DT := rfl
@[simp] theorem supplyRnd_ST (b : Byte) : (s.supplyRnd b).ST = s.ST := rfl
@[simp] theorem supplyRnd_mem (b : Byte) : (s.supplyRnd b).mem = s.mem := rfl
@[simp] theorem supplyRnd_keypad (b : Byte) : (s.supplyRnd b).keypad = s.keypad := rfl
@[simp] theorem supplyRnd_video (b : Byte) : (s.supplyRnd b).video = s.video := rfl
@[simp] theorem supplyRnd_keyprev (b : Byte) : (s.supplyRnd b).keyprev = s.keyprev := rfl
@[simp] theorem supplyRnd_rndIn (b : Byte) : (s.supplyRnd b).rndIn = some b := rfl
@[simp] theorem supplyRnd_draws (b : Byte) : (s.supplyRnd b).draws = s.draws := rfl
@[simp] theorem supplyRnd_reg (b : Byte) (r : Reg) : (s.supplyRnd b).reg r = s.reg r := rfl

@[simp] theorem latch_V : s.latch.V = s.V := rfl
@[simp] theorem latch_I : s.latch.I = s.I := rfl
@[simp] theorem latch_pc : s.latch.pc = s.pc := rfl
@[simp] theorem latch_stack : s.latch.stack = s.stack := rfl
@[simp] theorem latch_sp : s.latch.sp = s.sp := rfl
@[simp] theorem latch_DT : s.latch.DT = s.DT := rfl
@[simp] theorem latch_ST : s.latch.ST = s.ST := rfl
@[simp] theorem latch_mem : s.latch.mem = s.mem := rfl
@[simp] theorem latch_keypad : s.latch.keypad = s.keypad := rfl
@[simp] theorem latch_video : s.latch.video = s.video := rfl
@[simp] theorem latch_keyprev : s.latch.keyprev = s.keypad := rfl
@[simp] theorem latch_rndIn : s.latch.rndIn = none := rfl
@[simp] theorem latch_draws : s.latch.draws = s.draws := rfl
@[simp] theorem latch_reg (r : Reg) : s.latch.reg r = s.reg r := rfl

@[simp] theorem setReg_V (x : Reg) (b : Byte) : (s.setReg x b).V = s.V.set x.toNat b (by have := x.isLt; omega) := rfl
@[simp] theorem setReg_I (x : Reg) (b : Byte) : (s.setReg x b).I = s.I := rfl
@[simp] theorem setReg_pc (x : Reg) (b : Byte) : (s.setReg x b).pc = s.pc := rfl
@[simp] theorem setReg_stack (x : Reg) (b : Byte) : (s.setReg x b).stack = s.stack := rfl
@[simp] theorem setReg_sp (x : Reg) (b : Byte) : (s.setReg x b).sp = s.sp := rfl
@[simp] theorem setReg_DT (x : Reg) (b : Byte) : (s.setReg x b).DT = s.DT := rfl
@[simp] theorem setReg_ST (x : Reg) (b : Byte) : (s.setReg x b).ST = s.ST := rfl
@[simp] theorem setReg_mem (x : Reg) (b : Byte) : (s.setReg x b).mem = s.mem := rfl
@[simp] theorem setReg_keypad (x : Reg) (b : Byte) : (s.setReg x b).keypad = s.keypad := rfl
@[simp] theorem setReg_video (x : Reg) (b : Byte) : (s.setReg x b).video = s.video := rfl
@[simp] theorem setReg_keyprev (x : Reg) (b : Byte) : (s.setReg x b).keyprev = s.keyprev := rfl
@[simp] theorem setReg_rndIn (x : Reg) (b : Byte) : (s.setReg x b).rndIn = s.rndIn := rfl
@[simp] theorem setReg_draws (x : Reg) (b : Byte) : (s.setReg x b).draws = s.draws := rfl

@[simp] theorem setVF_V (b : Byte) : (s.setVF b).V = s.V.set 15 b := rfl
@[simp] theorem setVF_I (b : Byte) : (s.setVF b).I = s.I := rfl
@[simp] theorem setVF_pc (b : Byte) : (s.setVF b).pc = s.pc := rfl
@[simp] theorem setVF_stack (b : Byte) : (s.setVF b).stack = s.stack := rfl
@[simp] theorem setVF_sp (b : Byte) : (s.setVF b).sp = s.sp := rfl
@[simp] theorem setVF_DT (b : Byte) : (s.setVF b).DT = s.DT := rfl
@[simp] theorem setVF_ST (b : Byte) : (s.setVF b).ST = s.ST := rfl
@[simp] theorem setVF_mem (b : Byte) : (s.setVF b).mem = s.mem := rfl
@[simp] theorem setVF_keypad (b : Byte) : (s.setVF b).keypad = s.keypad := rfl
@[simp] theorem setVF_video (b : Byte) : (s.setVF b).video = s.video := rfl
@[simp] theorem setVF_keyprev (b : Byte) : (s.setVF b).keyprev = s.keyprev := rfl
@[simp] theorem setVF_rndIn (b : Byte) : (s.setVF b).rndIn = s.rndIn := rfl
@[simp] theorem setVF_draws (b : Byte) : (s.setVF b).draws = s.draws := rfl

@[simp] theorem addIndex_V (b : Byte) : (s.addIndex b).V = s.V := rfl
@[simp] theorem addIndex_I (b : Byte) : (s.addIndex b).I = s.I + b.zeroExtend 16 := rfl
@[simp] theorem addIndex_pc (b : Byte) : (s.addIndex b).pc = s.pc := rfl
@[simp] theorem addIndex_stack (b : Byte) : (s.addIndex b).stack = s.stack := rfl
@[simp] theorem addIndex_sp (b : Byte) : (s.addIndex b).sp = s.sp := rfl
@[simp] theorem addIndex_DT (b : Byte) : (s.addIndex b).DT = s.DT := rfl
@[simp] theorem addIndex_ST (b : Byte) : (s.addIndex b).ST = s.ST := rfl
@[simp] theorem addIndex_mem (b : Byte) : (s.addIndex b).mem = s.mem := rfl
@[simp] theorem addIndex_keypad (b : Byte) : (s.addIndex b).keypad = s.keypad := rfl
@[simp] theorem addIndex_video (b : Byte) : (s.addIndex b).video = s.video := rfl
@[simp] theorem addIndex_keyprev (b : Byte) : (s.addIndex b).keyprev = s.keyprev := rfl
@[simp] theorem addIndex_rndIn (b : Byte) : (s.addIndex b).rndIn = s.rndIn := rfl
@[simp] theorem addIndex_draws (b : Byte) : (s.addIndex b).draws = s.draws := rfl
@[simp] theorem addIndex_reg (b : Byte) (r : Reg) : (s.addIndex b).reg r = s.reg r := rfl

@[simp] theorem setKey_V (k : Fin 16) (b : Bool) : (s.setKey k b).V = s.V := rfl
@[simp] theorem setKey_I (k : Fin 16) (b : Bool) : (s.setKey k b).I = s.I := rfl
@[simp] theorem setKey_pc (k : Fin 16) (b : Bool) : (s.setKey k b).pc = s.pc := rfl
@[simp] theorem setKey_stack (k : Fin 16) (b : Bool) : (s.setKey k b).stack = s.stack := rfl
@[simp] theorem setKey_sp (k : Fin 16) (b : Bool) : (s.setKey k b).sp = s.sp := rfl
@[simp] theorem setKey_DT (k : Fin 16) (b : Bool) : (s.setKey k b).DT = s.DT := rfl
@[simp] theorem setKey_ST (k : Fin 16) (b : Bool) : (s.setKey k b).ST = s.ST := rfl
@[simp] theorem setKey_mem (k : Fin 16) (b : Bool) : (s.setKey k b).mem = s.mem := rfl
@[simp] theorem setKey_keypad (k : Fin 16) (b : Bool) : (s.setKey k b).keypad = s.keypad.set k b := rfl
@[simp] theorem setKey_video (k : Fin 16) (b : Bool) : (s.setKey k b).video = s.video := rfl
@[simp] theorem setKey_keyprev (k : Fin 16) (b : Bool) : (s.setKey k b).keyprev = s.keyprev := rfl
@[simp] theorem setKey_rndIn (k : Fin 16) (b : Bool) : (s.setKey k b).rndIn = s.rndIn := rfl
@[simp] theorem setKey_draws (k : Fin 16) (b : Bool) : (s.setKey k b).draws = s.draws := rfl
@[simp] theorem setKey_reg (k : Fin 16) (b : Bool) (r : Reg) : (s.setKey k b).reg r = s.reg r := rfl

@[simp] theorem tick_V : s.tick.V = s.V := rfl
@[simp] theorem tick_I : s.tick.I = s.I := rfl
@[simp] theorem tick_pc : s.tick.pc = s.pc := rfl
@[simp] theorem tick_stack : s.tick.stack = s.stack := rfl
@[simp] theorem tick_sp : s.tick.sp = s.sp := rfl
@[simp] theorem tick_DT : s.tick.DT = countDown s.DT := rfl
@[simp] theorem tick_ST : s.tick.ST = countDown s.ST := rfl
@[simp] theorem tick_mem : s.tick.mem = s.mem := rfl
@[simp] theorem tick_keypad : s.tick.keypad = s.keypad := rfl
@[simp] theorem tick_video : s.tick.video = s.video := rfl
@[simp] theorem tick_keyprev : s.tick.keyprev = s.keyprev := rfl
@[simp] theorem tick_rndIn : s.tick.rndIn = s.rndIn := rfl
@[simp] theorem tick_draws : s.tick.draws = s.draws := rfl
@[simp] theorem tick_reg (r : Reg) : s.tick.reg r = s.reg r := rfl

@[simp] theorem skipIf_V (c : Bool) : (s.skipIf c).V = s.V := by cases c <;> rfl
@[simp] theorem skipIf_I (c : Bool) : (s.skipIf c).I = s.I := by cases c <;> rfl
@[simp] theorem skipIf_pc (c : Bool) : (s.skipIf c).pc = if c then s.pc + 2#16 else s.pc := by
  cases c <;> rfl
@[simp] theorem skipIf_stack (c : Bool) : (s.skipIf c).stack = s.stack := by cases c <;> rfl
@[simp] theorem skipIf_sp (c : Bool) : (s.skipIf c).sp = s.sp := by cases c <;> rfl
@[simp] theorem skipIf_DT (c : Bool) : (s.skipIf c).DT = s.DT := by cases c <;> rfl
@[simp] theorem skipIf_ST (c : Bool) : (s.skipIf c).ST = s.ST := by cases c <;> rfl
@[simp] theorem skipIf_mem (c : Bool) : (s.skipIf c).mem = s.mem := by cases c <;> rfl
@[simp] theorem skipIf_keypad (c : Bool) : (s.skipIf c).keypad = s.keypad := by cases c <;> rfl
@[simp] theorem skipIf_video (c : Bool) : (s.skipIf c).video = s.video := by cases c <;> rfl
@[simp] theorem skipIf_keyprev (c : Bool) : (s.skipIf c).keyprev = s.keyprev := by cases c <;> rfl
@[simp] theorem skipIf_rndIn (c : Bool) : (s.skipIf c).rndIn = s.rndIn := by cases c <;> rfl
@[simp] theorem skipIf_draws (c : Bool) : (s.skipIf c).draws = s.draws := by cases c <;> rfl
@[simp] theorem skipIf_reg (c : Bool) (r : Reg) : (s.skipIf c).reg r = s.reg r := by cases c <;> rfl

/-- A register reads as it was last written. -/
@[simp] theorem setReg_reg (x : Reg) (b : Byte) (r : Reg) :
    (s.setReg x b).reg r = if r = x then b else s.reg r := by
  unfold State.reg
  simp only [setReg_V, Vector.getElem_set]
  by_cases h : r = x
  · simp [h]
  · simp [h, show ¬x.toNat = r.toNat from fun e => h (BitVec.eq_of_toNat_eq e.symm)]

@[simp] theorem setVF_reg (b : Byte) (r : Reg) :
    (s.setVF b).reg r = if r = 15#4 then b else s.reg r := setReg_reg s 15#4 b r

@[simp] theorem loadRegs_I (k : Nat) : (s.loadRegs k).I = s.I := by
  induction k with
  | zero => rfl
  | succ k ih => simp [State.loadRegs, ih]
@[simp] theorem loadRegs_pc (k : Nat) : (s.loadRegs k).pc = s.pc := by
  induction k with
  | zero => rfl
  | succ k ih => simp [State.loadRegs, ih]
@[simp] theorem loadRegs_stack (k : Nat) : (s.loadRegs k).stack = s.stack := by
  induction k with
  | zero => rfl
  | succ k ih => simp [State.loadRegs, ih]
@[simp] theorem loadRegs_sp (k : Nat) : (s.loadRegs k).sp = s.sp := by
  induction k with
  | zero => rfl
  | succ k ih => simp [State.loadRegs, ih]
@[simp] theorem loadRegs_DT (k : Nat) : (s.loadRegs k).DT = s.DT := by
  induction k with
  | zero => rfl
  | succ k ih => simp [State.loadRegs, ih]
@[simp] theorem loadRegs_ST (k : Nat) : (s.loadRegs k).ST = s.ST := by
  induction k with
  | zero => rfl
  | succ k ih => simp [State.loadRegs, ih]
@[simp] theorem loadRegs_mem (k : Nat) : (s.loadRegs k).mem = s.mem := by
  induction k with
  | zero => rfl
  | succ k ih => simp [State.loadRegs, ih]
@[simp] theorem loadRegs_keypad (k : Nat) : (s.loadRegs k).keypad = s.keypad := by
  induction k with
  | zero => rfl
  | succ k ih => simp [State.loadRegs, ih]
@[simp] theorem loadRegs_video (k : Nat) : (s.loadRegs k).video = s.video := by
  induction k with
  | zero => rfl
  | succ k ih => simp [State.loadRegs, ih]
@[simp] theorem loadRegs_keyprev (k : Nat) : (s.loadRegs k).keyprev = s.keyprev := by
  induction k with
  | zero => rfl
  | succ k ih => simp [State.loadRegs, ih]
@[simp] theorem loadRegs_rndIn (k : Nat) : (s.loadRegs k).rndIn = s.rndIn := by
  induction k with
  | zero => rfl
  | succ k ih => simp [State.loadRegs, ih]
@[simp] theorem loadRegs_draws (k : Nat) : (s.loadRegs k).draws = s.draws := by
  induction k with
  | zero => rfl
  | succ k ih => simp [State.loadRegs, ih]

end Sys2Proof.Machine
end

