-- ==== Sys2Proof/Laws/Operations.lean ====
section
/-! SUPPORT. One lemma per shared operation, saying once everything it can do. -/

namespace Sys2Proof.Machine

variable {s t u : State}

/-- The address immediate is zero-extended (R62). -/
@[simp] theorem zext16_toNat (nnn : Imm12) : (zext16 nnn).toNat = nnn.toNat := by
  have := nnn.isLt
  simp [zext16]
  omega

/-! ### Range-checked accesses (R46) -/

theorem dataInRange_iff (s : State) (cnt : Nat) :
    s.dataInRange cnt = true ↔ cnt = 0 ∨ s.I.toNat + cnt - 1 ≤ 0xFFF := by
  simp [State.dataInRange]

theorem accessing_in {cnt : Nat} (h : s.dataInRange cnt = true) : s.accessing cnt t = .next t := by
  rw [State.accessing, h]; rfl

theorem accessing_out {cnt : Nat} (h : s.dataInRange cnt = false) :
    s.accessing cnt t = .fault (.outOfBounds (.data cnt) s.I s) := by
  rw [State.accessing, h]; rfl

/-- A range-checked access: it happens whole, or the condition is raised with nothing changed. -/
theorem accessing_cases (s t : State) (cnt : Nat) :
    (s.dataInRange cnt = true ∧ s.accessing cnt t = .next t) ∨
    (s.dataInRange cnt = false ∧ s.accessing cnt t = .fault (.outOfBounds (.data cnt) s.I s)) := by
  cases h : s.dataInRange cnt
  · exact .inr ⟨rfl, accessing_out h⟩
  · exact .inl ⟨rfl, accessing_in h⟩

/-! ### Keys (R137, R139) -/

theorem keyNumber_some {x : Reg} {k : Fin 16} : s.keyNumber x = some k ↔ (s.reg x).toNat = k.val := by
  unfold State.keyNumber
  split
  · simp [Fin.ext_iff]
  · next h => exact ⟨fun e => by simp at e, fun e => absurd (e ▸ k.isLt) h⟩

theorem keyNumber_none {x : Reg} : s.keyNumber x = none ↔ 16 ≤ (s.reg x).toNat := by
  unfold State.keyNumber
  split <;> simp <;> omega

/-- A skip on a key: a next state when `V[x]` names a key, else the condition with nothing changed. -/
theorem skipOnKey_cases (s : State) (x : Reg) (p : Bool) :
    (∃ k : Fin 16, (s.reg x).toNat = k.val ∧ s.skipOnKey x p = .next (s.skipIf (s.keypad[k] == p))) ∨
    (16 ≤ (s.reg x).toNat ∧ s.skipOnKey x p = .fault (.outOfBounds .key ((s.reg x).zeroExtend 16) s)) := by
  unfold State.skipOnKey raise
  cases h : s.keyNumber x with
  | none => exact .inr ⟨keyNumber_none.1 h, rfl⟩
  | some k => exact .inl ⟨k, keyNumber_some.1 h, rfl⟩

theorem mem_keyNumbers (k : Fin 16) : k ∈ keyNumbers := by
  revert k; decide

/-- No key is new exactly when `new` is empty. -/
theorem newKey_none : s.newKey = none ↔ ∀ k, s.newlyDown k = false := by
  simp [State.newKey, List.find?_eq_none, mem_keyNumbers]

/-- The new key found is new, and every lower one is not. -/
theorem newKey_some {k : Fin 16} (h : s.newKey = some k) :
    s.newlyDown k = true ∧ ∀ j < k, s.newlyDown j = false := by
  obtain ⟨hk, as, bs, hl, hn⟩ := List.find?_eq_some_iff_append.1 h
  refine ⟨hk, fun j hj => ?_⟩
  have sorted : keyNumbers.Pairwise (· < ·) := by decide
  rw [hl] at sorted
  have mem := mem_keyNumbers j
  rw [hl] at mem
  have hp := (List.pairwise_cons.1 (List.pairwise_append.1 sorted).2.1).1
  rcases List.mem_append.1 mem with hm | hm
  · simpa using hn j hm
  · rcases List.mem_cons.1 hm with rfl | hm
    · exact absurd hj (lt_irrefl _)
    · exact absurd hj (lt_asymm (hp j hm))

/-! ### The frame of a step (R80, R81, R85) -/

theorem fetch_none : fetch s = none ↔ 0xFFF ≤ s.pc.toNat := by
  unfold fetch
  split <;> simp <;> omega

theorem fetch_some {op : Word} :
    fetch s = some op ↔ s.pc.toNat < 0xFFF ∧
      wordOfBytes (s.mem.read s.pc.toNat) (s.mem.read (s.pc.toNat + 1)) = op := by
  unfold fetch
  split <;> simp <;> omega

theorem endStep_next {o : Host.Outcome State Fault Refusal} :
    endStep o = .next t ↔ ∃ u, o = .next u ∧ t = u.latch := by
  cases o <;> simp [endStep, eq_comm]

theorem endStep_fault {o : Host.Outcome State Fault Refusal} {f : Fault} :
    endStep o = .fault f ↔ ∃ g, o = .fault g ∧ f = g.mapLeft State.latch := by
  cases o <;> simp [endStep, eq_comm]

theorem endStep_refused {o : Host.Outcome State Fault Refusal} {r : Refusal} :
    endStep o = .refused r ↔ o = .refused r := by
  cases o <;> simp [endStep]

@[simp] theorem mapLeft_left (g : State → State) (f : Fault) : (f.mapLeft g).left = g f.left := by
  cases f <;> rfl

@[simp] theorem mapLeft_code (g : State → State) (f : Fault) : (f.mapLeft g).code = f.code := by
  cases f <;> rfl

/-! ### Register blocks (R124, R125) -/

theorem regBytes_length (s : State) {cnt : Nat} (h : cnt ≤ 16) : (s.regBytes cnt).length = cnt := by
  simp [State.regBytes, h]

theorem regBytes_getElem (s : State) {cnt j : Nat} (h : j < (s.regBytes cnt).length) (r : Reg) (hr : r.toNat = j) :
    (s.regBytes cnt)[j] = s.reg r := by
  subst hr
  simp [State.regBytes, State.reg]

/-- The register load writes nothing but registers. -/
theorem loadRegs_frame (s : State) (k : Nat) : s.loadRegs k = { s with V := (s.loadRegs k).V } := by
  induction k with
  | zero => rfl
  | succ k ih =>
    rw [State.loadRegs, ih]
    rfl

/-- The register load: the first `k` registers from memory, the others as they were. -/
theorem loadRegs_reg (s : State) {k : Nat} (hk : k ≤ 16) (r : Reg) :
    (s.loadRegs k).reg r = if r.toNat < k then s.mem.read (s.ea r.toNat) else s.reg r := by
  induction k with
  | zero => simp [State.loadRegs]
  | succ k ih =>
    rw [State.loadRegs, setReg_reg, ih (by omega)]
    by_cases h : r = BitVec.ofNat 4 k
    · have : r.toNat = k := by simp [h]; omega
      rw [if_pos h, if_pos (by omega), this]
    · have : r.toNat ≠ k := fun e => h (by rw [← e]; simp)
      simp only [h, if_false]
      split <;> split <;> first | rfl | omega

end Sys2Proof.Machine
end

