-- ==== Sys2Proof/Laws/Meanings.lean ====
section
/-! SUPPORT. The meanings with more than one outcome, each outcome said once. -/

namespace Sys2Proof.Machine

theorem execRet_cases (s : State) :
    (∃ h : 0 < s.sp.val, execRet s = .next (s.popPc h)) ∨
    (s.sp.val = 0 ∧ execRet s = .fault (.stackUnderflow s)) := by
  unfold execRet raise
  by_cases h : 0 < s.sp.val
  · exact .inl ⟨h, by simp [h]⟩
  · exact .inr ⟨by omega, by simp [h]⟩

theorem execCall_cases (nnn : Imm12) (s : State) :
    (∃ h : s.sp.val < 16, execCall nnn s = .next ((s.push s.pc h).setPc (zext16 nnn))) ∨
    (s.sp.val = 16 ∧ execCall nnn s = .fault (.stackOverflow s)) := by
  unfold execCall raise
  by_cases h : s.sp.val < 16
  · exact .inl ⟨h, by simp [h]⟩
  · exact .inr ⟨by have := s.sp.isLt; omega, by simp [h]⟩

theorem execLdKey_cases (x : Reg) (s : State) :
    ((∀ k, s.newlyDown k = false) ∧ execLdKey x s = .next s.hold) ∨
    (∃ k : Fin 16, s.newlyDown k = true ∧ (∀ j < k, s.newlyDown j = false) ∧
      execLdKey x s = .next (s.setReg x (BitVec.ofNat 8 k.val))) := by
  unfold execLdKey
  cases h : s.newKey with
  | none => exact .inl ⟨newKey_none.1 h, rfl⟩
  | some k => exact .inr ⟨k, (newKey_some h).1, (newKey_some h).2, rfl⟩

theorem execAddI_next (x : Reg) (s : State) :
    ∃ t, execAddI x s = .next t ∧ t = { s with I := s.I + (s.reg x).setWidth 16, V := t.V } ∧
      ∀ r : Reg, t.reg r = if r = 15#4 ∧ s.I.toNat + (s.reg x).toNat > 0xFFF then 1#8 else s.reg r := by
  refine ⟨_, rfl, ?_, fun r => ?_⟩
  · split <;> rfl
  · unfold indexOverflow
    split <;> simp_all

theorem execDrw_cases (x y : Reg) (n : Nibble) (s : State) :
    (s.dataInRange n.toNat = true ∧
      execDrw x y n s = .next ((s.setVideo (s.sprite x y n).1).setVF (flagByte (s.sprite x y n).2))) ∨
    (s.dataInRange n.toNat = false ∧ execDrw x y n s = .fault (.outOfBounds (.data n.toNat) s.I s)) :=
  accessing_cases _ _ _

theorem execLdBcd_cases (x : Reg) (s : State) :
    (s.dataInRange 3 = true ∧
      execLdBcd x s = .next (s.setMem (s.mem.writeBytes (s.ea 0) (bcdDigits (s.reg x))))) ∨
    (s.dataInRange 3 = false ∧ execLdBcd x s = .fault (.outOfBounds (.data 3) s.I s)) :=
  accessing_cases _ _ _

theorem execStRegs_cases (x : Reg) (s : State) :
    (s.dataInRange (x.toNat + 1) = true ∧
      execStRegs x s = .next (s.setMem (s.mem.writeBytes (s.ea 0) (s.regBytes (x.toNat + 1))))) ∨
    (s.dataInRange (x.toNat + 1) = false ∧
      execStRegs x s = .fault (.outOfBounds (.data (x.toNat + 1)) s.I s)) :=
  accessing_cases _ _ _

theorem execLdRegs_cases (x : Reg) (s : State) :
    (s.dataInRange (x.toNat + 1) = true ∧ execLdRegs x s = .next (s.loadRegs (x.toNat + 1))) ∨
    (s.dataInRange (x.toNat + 1) = false ∧
      execLdRegs x s = .fault (.outOfBounds (.data (x.toNat + 1)) s.I s)) :=
  accessing_cases _ _ _

end Sys2Proof.Machine
end

