-- ==== Sys2Proof/Laws/PerInstr.lean ====
section
/-! SUPPORT. Per instruction: its encoded word matches its own row of 30_encoding.md rule R64. -/

namespace Sys2Proof.Laws

/-- The encoded word of `i` is accepted by the row of rule R64 that carries `i`'s pattern. -/
def RowMatch.Statement (i : Instr) : Prop :=
  ∃ r ∈ opcodeMap, r.pattern = i.pattern ∧ r.accepts (encode i) = true

/-- A word is accepted when, bit by bit, it has the row's fixed bits. -/
theorem accepts_of_bits {r : Row} {op : Word}
    (h : ∀ k : Fin 16, (op.getLsbD k && r.mask.getLsbD k) = r.want.getLsbD k) : r.accepts op = true := by
  have : op &&& r.mask = r.want := BitVec.eq_of_getLsbD_eq fun k hk => by simpa using h ⟨k, hk⟩
  simp [Row.accepts, this]

/-- The statement from the row and its bits. -/
theorem rowMatch_of_bits {i : Instr} (r : Row) (hr : r ∈ opcodeMap) (hp : r.pattern = i.pattern)
    (h : ∀ k : Fin 16, ((encode i).getLsbD k && r.mask.getLsbD k) = r.want.getLsbD k) : RowMatch.Statement i :=
  ⟨r, hr, hp, accepts_of_bits h⟩

theorem RowMatch.cls : RowMatch.Statement (.cls) :=
  rowMatch_of_bits ⟨"00E0", 0x00E0, 0xFFFF⟩ (by decide) rfl fun k => by
    fin_cases k <;> rfl

theorem RowMatch.ret : RowMatch.Statement (.ret) :=
  rowMatch_of_bits ⟨"00EE", 0x00EE, 0xFFFF⟩ (by decide) rfl fun k => by
    fin_cases k <;> rfl

theorem RowMatch.jp (nnn : Imm12) : RowMatch.Statement (.jp nnn) :=
  rowMatch_of_bits ⟨"1nnn", 0x1000, 0xF000⟩ (by decide) rfl fun k => by
    fin_cases k <;> simp [encode]

theorem RowMatch.call (nnn : Imm12) : RowMatch.Statement (.call nnn) :=
  rowMatch_of_bits ⟨"2nnn", 0x2000, 0xF000⟩ (by decide) rfl fun k => by
    fin_cases k <;> simp [encode]

theorem RowMatch.seImm (x : Reg) (kk : Byte) : RowMatch.Statement (.seImm x kk) :=
  rowMatch_of_bits ⟨"3xkk", 0x3000, 0xF000⟩ (by decide) rfl fun k => by
    fin_cases k <;> simp [encode, placeX]

theorem RowMatch.sneImm (x : Reg) (kk : Byte) : RowMatch.Statement (.sneImm x kk) :=
  rowMatch_of_bits ⟨"4xkk", 0x4000, 0xF000⟩ (by decide) rfl fun k => by
    fin_cases k <;> simp [encode, placeX]

theorem RowMatch.seReg (x : Reg) (y : Reg) : RowMatch.Statement (.seReg x y) :=
  rowMatch_of_bits ⟨"5xy0", 0x5000, 0xF00F⟩ (by decide) rfl fun k => by
    fin_cases k <;> simp [encode, placeX, placeY]

theorem RowMatch.ldImm (x : Reg) (kk : Byte) : RowMatch.Statement (.ldImm x kk) :=
  rowMatch_of_bits ⟨"6xkk", 0x6000, 0xF000⟩ (by decide) rfl fun k => by
    fin_cases k <;> simp [encode, placeX]

theorem RowMatch.addImm (x : Reg) (kk : Byte) : RowMatch.Statement (.addImm x kk) :=
  rowMatch_of_bits ⟨"7xkk", 0x7000, 0xF000⟩ (by decide) rfl fun k => by
    fin_cases k <;> simp [encode, placeX]

theorem RowMatch.ldReg (x : Reg) (y : Reg) : RowMatch.Statement (.ldReg x y) :=
  rowMatch_of_bits ⟨"8xy0", 0x8000, 0xF00F⟩ (by decide) rfl fun k => by
    fin_cases k <;> simp [encode, placeX, placeY]

theorem RowMatch.orReg (x : Reg) (y : Reg) : RowMatch.Statement (.orReg x y) :=
  rowMatch_of_bits ⟨"8xy1", 0x8001, 0xF00F⟩ (by decide) rfl fun k => by
    fin_cases k <;> simp [encode, placeX, placeY]

theorem RowMatch.andReg (x : Reg) (y : Reg) : RowMatch.Statement (.andReg x y) :=
  rowMatch_of_bits ⟨"8xy2", 0x8002, 0xF00F⟩ (by decide) rfl fun k => by
    fin_cases k <;> simp [encode, placeX, placeY]

theorem RowMatch.xorReg (x : Reg) (y : Reg) : RowMatch.Statement (.xorReg x y) :=
  rowMatch_of_bits ⟨"8xy3", 0x8003, 0xF00F⟩ (by decide) rfl fun k => by
    fin_cases k <;> simp [encode, placeX, placeY]

theorem RowMatch.addReg (x : Reg) (y : Reg) : RowMatch.Statement (.addReg x y) :=
  rowMatch_of_bits ⟨"8xy4", 0x8004, 0xF00F⟩ (by decide) rfl fun k => by
    fin_cases k <;> simp [encode, placeX, placeY]

theorem RowMatch.sub (x : Reg) (y : Reg) : RowMatch.Statement (.sub x y) :=
  rowMatch_of_bits ⟨"8xy5", 0x8005, 0xF00F⟩ (by decide) rfl fun k => by
    fin_cases k <;> simp [encode, placeX, placeY]

theorem RowMatch.shr (x : Reg) (y : Reg) : RowMatch.Statement (.shr x y) :=
  rowMatch_of_bits ⟨"8xy6", 0x8006, 0xF00F⟩ (by decide) rfl fun k => by
    fin_cases k <;> simp [encode, placeX, placeY]

theorem RowMatch.subn (x : Reg) (y : Reg) : RowMatch.Statement (.subn x y) :=
  rowMatch_of_bits ⟨"8xy7", 0x8007, 0xF00F⟩ (by decide) rfl fun k => by
    fin_cases k <;> simp [encode, placeX, placeY]

theorem RowMatch.shl (x : Reg) (y : Reg) : RowMatch.Statement (.shl x y) :=
  rowMatch_of_bits ⟨"8xyE", 0x800E, 0xF00F⟩ (by decide) rfl fun k => by
    fin_cases k <;> simp [encode, placeX, placeY]

theorem RowMatch.sneReg (x : Reg) (y : Reg) : RowMatch.Statement (.sneReg x y) :=
  rowMatch_of_bits ⟨"9xy0", 0x9000, 0xF00F⟩ (by decide) rfl fun k => by
    fin_cases k <;> simp [encode, placeX, placeY]

theorem RowMatch.ldI (nnn : Imm12) : RowMatch.Statement (.ldI nnn) :=
  rowMatch_of_bits ⟨"Annn", 0xA000, 0xF000⟩ (by decide) rfl fun k => by
    fin_cases k <;> simp [encode]

theorem RowMatch.jpV0 (nnn : Imm12) : RowMatch.Statement (.jpV0 nnn) :=
  rowMatch_of_bits ⟨"Bnnn", 0xB000, 0xF000⟩ (by decide) rfl fun k => by
    fin_cases k <;> simp [encode]

theorem RowMatch.rnd (x : Reg) (kk : Byte) : RowMatch.Statement (.rnd x kk) :=
  rowMatch_of_bits ⟨"Cxkk", 0xC000, 0xF000⟩ (by decide) rfl fun k => by
    fin_cases k <;> simp [encode, placeX]

theorem RowMatch.drw (x : Reg) (y : Reg) (n : Nibble) : RowMatch.Statement (.drw x y n) :=
  rowMatch_of_bits ⟨"Dxyn", 0xD000, 0xF000⟩ (by decide) rfl fun k => by
    fin_cases k <;> simp [encode, placeX, placeY]

theorem RowMatch.skp (x : Reg) : RowMatch.Statement (.skp x) :=
  rowMatch_of_bits ⟨"Ex9E", 0xE09E, 0xF0FF⟩ (by decide) rfl fun k => by
    fin_cases k <;> simp [encode, placeX]

theorem RowMatch.sknp (x : Reg) : RowMatch.Statement (.sknp x) :=
  rowMatch_of_bits ⟨"ExA1", 0xE0A1, 0xF0FF⟩ (by decide) rfl fun k => by
    fin_cases k <;> simp [encode, placeX]

theorem RowMatch.ldFromDT (x : Reg) : RowMatch.Statement (.ldFromDT x) :=
  rowMatch_of_bits ⟨"Fx07", 0xF007, 0xF0FF⟩ (by decide) rfl fun k => by
    fin_cases k <;> simp [encode, placeX]

theorem RowMatch.ldKey (x : Reg) : RowMatch.Statement (.ldKey x) :=
  rowMatch_of_bits ⟨"Fx0A", 0xF00A, 0xF0FF⟩ (by decide) rfl fun k => by
    fin_cases k <;> simp [encode, placeX]

theorem RowMatch.ldDT (x : Reg) : RowMatch.Statement (.ldDT x) :=
  rowMatch_of_bits ⟨"Fx15", 0xF015, 0xF0FF⟩ (by decide) rfl fun k => by
    fin_cases k <;> simp [encode, placeX]

theorem RowMatch.ldST (x : Reg) : RowMatch.Statement (.ldST x) :=
  rowMatch_of_bits ⟨"Fx18", 0xF018, 0xF0FF⟩ (by decide) rfl fun k => by
    fin_cases k <;> simp [encode, placeX]

theorem RowMatch.addI (x : Reg) : RowMatch.Statement (.addI x) :=
  rowMatch_of_bits ⟨"Fx1E", 0xF01E, 0xF0FF⟩ (by decide) rfl fun k => by
    fin_cases k <;> simp [encode, placeX]

theorem RowMatch.ldFont (x : Reg) : RowMatch.Statement (.ldFont x) :=
  rowMatch_of_bits ⟨"Fx29", 0xF029, 0xF0FF⟩ (by decide) rfl fun k => by
    fin_cases k <;> simp [encode, placeX]

theorem RowMatch.ldBcd (x : Reg) : RowMatch.Statement (.ldBcd x) :=
  rowMatch_of_bits ⟨"Fx33", 0xF033, 0xF0FF⟩ (by decide) rfl fun k => by
    fin_cases k <;> simp [encode, placeX]

theorem RowMatch.stRegs (x : Reg) : RowMatch.Statement (.stRegs x) :=
  rowMatch_of_bits ⟨"Fx55", 0xF055, 0xF0FF⟩ (by decide) rfl fun k => by
    fin_cases k <;> simp [encode, placeX]

theorem RowMatch.ldRegs (x : Reg) : RowMatch.Statement (.ldRegs x) :=
  rowMatch_of_bits ⟨"Fx65", 0xF065, 0xF0FF⟩ (by decide) rfl fun k => by
    fin_cases k <;> simp [encode, placeX]

end Sys2Proof.Laws
end

