-- ==== Sys2Proof/Tests/Slice0.lean ====
section
/-! SUPPORT. The model's own tests: every constructor's decoding by a word written out from 30_encoding.md rule R64, words
no row accepts, single steps from the vectors of 95_test_vectors.md, and witnesses for the hypotheses of the statements. -/

namespace Sys2Proof.Tests

open Sys2Proof.Machine

/-! ### Words that are not well formed: one of each class of rule R66 -/

theorem test_illFormed_family0 : wellFormedWord 0x0000#16 = false ∧ wellFormedWord 0x01E0#16 = false := by decide
theorem test_illFormed_family5 : wellFormedWord 0x5AB1#16 = false := by decide
theorem test_illFormed_family8 : wellFormedWord 0x8AB8#16 = false ∧ wellFormedWord 0x8ABF#16 = false := by decide
theorem test_illFormed_family9 : wellFormedWord 0x9AB1#16 = false := by decide
theorem test_illFormed_familyE : wellFormedWord 0xE09F#16 = false := by decide
theorem test_illFormed_familyF : wellFormedWord 0xF01F#16 = false := by decide
/-- Vectors X1 to X13 of section 2.2: none of these words is an instruction. -/
theorem test_unknown_words : ([0x0000, 0x0123, 0x00E1, 0x01E0, 0x5AB1, 0x8AB8, 0x8ABF, 0x9AB1, 0xE09F, 0xE000, 0xF000,
    0xF01F, 0xFF75] : List Word).all (fun op => decode op == none) = true := by decide
theorem test_decodeBytes_tooShort : decodeBytes [0x6A#8] = .error .tooShort := by rfl

/-! ### Decoding, the words written out nibble by nibble from rule R64 -/

theorem test_decode_cls : decode 0x00E0#16 = some (.cls) := by decide
theorem test_decode_ret : decode 0x00EE#16 = some (.ret) := by decide
theorem test_decode_jp : decode 0x1ABC#16 = some (.jp 0xABC#12) := by decide
theorem test_decode_call : decode 0x2ABC#16 = some (.call 0xABC#12) := by decide
theorem test_decode_seImm : decode 0x3A05#16 = some (.seImm 0xA#4 0x05#8) := by decide
theorem test_decode_sneImm : decode 0x4A05#16 = some (.sneImm 0xA#4 0x05#8) := by decide
theorem test_decode_seReg : decode 0x5AB0#16 = some (.seReg 0xA#4 0xB#4) := by decide
theorem test_decode_ldImm : decode 0x6A05#16 = some (.ldImm 0xA#4 0x05#8) := by decide
theorem test_decode_addImm : decode 0x7A02#16 = some (.addImm 0xA#4 0x02#8) := by decide
theorem test_decode_ldReg : decode 0x8AB0#16 = some (.ldReg 0xA#4 0xB#4) := by decide
theorem test_decode_orReg : decode 0x8AB1#16 = some (.orReg 0xA#4 0xB#4) := by decide
theorem test_decode_andReg : decode 0x8AB2#16 = some (.andReg 0xA#4 0xB#4) := by decide
theorem test_decode_xorReg : decode 0x8AB3#16 = some (.xorReg 0xA#4 0xB#4) := by decide
theorem test_decode_addReg : decode 0x8AB4#16 = some (.addReg 0xA#4 0xB#4) := by decide
theorem test_decode_sub : decode 0x8AB5#16 = some (.sub 0xA#4 0xB#4) := by decide
theorem test_decode_shr : decode 0x8AB6#16 = some (.shr 0xA#4 0xB#4) := by decide
theorem test_decode_subn : decode 0x8AB7#16 = some (.subn 0xA#4 0xB#4) := by decide
theorem test_decode_shl : decode 0x8ABE#16 = some (.shl 0xA#4 0xB#4) := by decide
theorem test_decode_sneReg : decode 0x9AB0#16 = some (.sneReg 0xA#4 0xB#4) := by decide
theorem test_decode_ldI : decode 0xA300#16 = some (.ldI 0x300#12) := by decide
theorem test_decode_jpV0 : decode 0xB300#16 = some (.jpV0 0x300#12) := by decide
theorem test_decode_rnd : decode 0xCA0F#16 = some (.rnd 0xA#4 0x0F#8) := by decide
theorem test_decode_drw : decode 0xD125#16 = some (.drw 0x1#4 0x2#4 0x5#4) := by decide
theorem test_decode_skp : decode 0xE29E#16 = some (.skp 0x2#4) := by decide
theorem test_decode_sknp : decode 0xE2A1#16 = some (.sknp 0x2#4) := by decide
theorem test_decode_ldFromDT : decode 0xF407#16 = some (.ldFromDT 0x4#4) := by decide
theorem test_decode_ldKey : decode 0xF30A#16 = some (.ldKey 0x3#4) := by decide
theorem test_decode_ldDT : decode 0xF415#16 = some (.ldDT 0x4#4) := by decide
theorem test_decode_ldST : decode 0xF418#16 = some (.ldST 0x4#4) := by decide
theorem test_decode_addI : decode 0xF21E#16 = some (.addI 0x2#4) := by decide
theorem test_decode_ldFont : decode 0xF029#16 = some (.ldFont 0x0#4) := by decide
theorem test_decode_ldBcd : decode 0xF533#16 = some (.ldBcd 0x5#4) := by decide
theorem test_decode_stRegs : decode 0xF255#16 = some (.stRegs 0x2#4) := by decide
theorem test_decode_ldRegs : decode 0xF265#16 = some (.ldRegs 0x2#4) := by decide
/-- The table's word of `DRW` read as the host reads it, and a word no row accepts. -/
theorem test_decodeTableWord : decodeTableWord 16 0xD125 = some (.drw 1 2 5) ∧ decodeTableWord 16 0x0000 = none := by
  decide

/-! ### Single steps (95_test_vectors.md part 2) -/

/-- What a vector checks of the state after a step that is ok. -/
def onNext {α : Type} (o : Host.Outcome State Fault Refusal) (view : State → α) : Option α :=
  match o with
  | .next s => some (view s)
  | _ => none

/-- What a vector checks of a condition: its code, and the state it leaves. -/
def onFault {α : Type} (o : Host.Outcome State Fault Refusal) (view : State → α) : Option (Nat × α) :=
  match o with
  | .fault f => some (f.code, view f.left)
  | _ => none

/-- The reset state with the word `w` at 0x200. -/
def at200 (w : Nat) : State := State.reset.withFetchWord 16 w

/-- A register set before the step. -/
def withV (s : State) (x : Reg) (b : Byte) : State := s.setReg x b

/-- Bytes put into memory before the step. -/
def withBytes (s : State) (a : Nat) (bs : List Byte) : State := s.setMem (s.mem.writeBytes a bs)

/-- A key held down before the step. -/
def withKey (s : State) (k : Fin 16) : State := s.setKey k true

/-- A stack of `n` entries, the top one `w`. -/
def withStack (s : State) (n : Fin 17) (top : Fin 16) (w : Word) : State :=
  { s with sp := n, stack := s.stack.set top w }

/-- Vector G1, one row set. -/
theorem test_cls : onNext (step { at200 0x00E0 with video := State.reset.video.set 7 5#64 }) (fun s => (s.video.toList.all (· == 0#64), s.pc)) = some (true, 0x202#16) := by decide
/-- Vector T3. -/
theorem test_ret : onNext (step (withStack (at200 0x00EE) 16 15 0x0ABC#16)) (fun s => (s.pc, s.sp)) = some (0xABC#16, 15) := by decide
/-- Vector T2. -/
theorem test_ret_underflow : onFault (step (at200 0x00EE)) (fun s => (s.pc, s.sp)) = some (5, 0x202#16, 0) := by decide
/-- Vector T6. -/
theorem test_jp : onNext (step (at200 0x1FFF)) (fun s => s.pc) = some 0xFFF#16 := by decide
/-- Vector T8. -/
theorem test_call : onNext (step (withStack (at200 0x2ABC) 15 0 0#16)) (fun s => (s.stack[15], s.sp, s.pc)) = some (0x202#16, 16, 0xABC#16) := by decide
/-- Vector T9. -/
theorem test_call_overflow : onFault (step (withStack (at200 0x2ABC) 16 0 0#16)) (fun s => (s.stack[15], s.sp, s.pc)) = some (4, 0#16, 16, 0x202#16) := by decide
/-- Vector T10. -/
theorem test_seImm : onNext (step (withV (at200 0x3A05) 10 0x05)) (fun s => s.pc) = some 0x204#16 := by decide
/-- Vector T11. -/
theorem test_seImm_not : onNext (step (withV (at200 0x3A05) 10 0x06)) (fun s => s.pc) = some 0x202#16 := by decide
/-- Vector T12. -/
theorem test_sneImm : onNext (step (withV (at200 0x4A05) 10 0x05)) (fun s => s.pc) = some 0x202#16 := by decide
/-- Vector T13. -/
theorem test_sneImm_skips : onNext (step (withV (at200 0x4A05) 10 0x06)) (fun s => s.pc) = some 0x204#16 := by decide
/-- Vector T15. -/
theorem test_seReg : onNext (step (withV (withV (at200 0x5AB0) 10 7) 11 8)) (fun s => s.pc) = some 0x202#16 := by decide
/-- Vector T16. -/
theorem test_seReg_same : onNext (step (withV (at200 0x5AA0) 10 9)) (fun s => s.pc) = some 0x204#16 := by decide
/-- Vector T17. -/
theorem test_sneReg : onNext (step (withV (withV (at200 0x9AB0) 10 7) 11 7)) (fun s => s.pc) = some 0x202#16 := by decide
/-- Vector T18. -/
theorem test_sneReg_skips : onNext (step (withV (withV (at200 0x9AB0) 10 7) 11 8)) (fun s => s.pc) = some 0x204#16 := by decide
/-- Vector T20. -/
theorem test_jpV0 : onNext (step (withV (at200 0xBFFF) 0 0xFF)) (fun s => s.pc) = some 0x10FE#16 := by decide
/-- Vector A2. -/
theorem test_ldImm : onNext (step (at200 0x6FFF)) (fun s => (s.reg 15, s.pc)) = some (0xFF#8, 0x202#16) := by decide
/-- Vector X16: an odd pc. -/
theorem test_ldImm_odd : onNext (step (withBytes { State.reset with pc := 0x201#16 } 0x201 [0x6A, 0x05])) (fun s => (s.reg 10, s.pc)) = some (0x05#8, 0x203#16) := by decide
/-- Vector A5. -/
theorem test_addImm : onNext (step (withV (withV (at200 0x7AFF) 10 0xFF) 15 1)) (fun s => (s.reg 10, s.reg 15)) = some (0xFE#8, 1#8) := by decide
/-- Vector A6. -/
theorem test_ldReg : onNext (step (withV (withV (withV (at200 0x8AB0) 10 1) 11 0x77) 15 1)) (fun s => (s.reg 10, s.reg 15)) = some (0x77#8, 1#8) := by decide
/-- Vector A7. -/
theorem test_orReg : onNext (step (withV (withV (withV (at200 0x8AB1) 10 0xF0) 11 0x0F) 15 1)) (fun s => (s.reg 10, s.reg 15)) = some (0xFF#8, 1#8) := by decide
/-- Vector A8. -/
theorem test_andReg : onNext (step (withV (withV (withV (at200 0x8AB2) 10 0xF0) 11 0x3C) 15 1)) (fun s => (s.reg 10, s.reg 15)) = some (0x30#8, 1#8) := by decide
/-- Vector A9. -/
theorem test_xorReg : onNext (step (withV (withV (withV (at200 0x8AB3) 10 0xF0) 11 0x3C) 15 1)) (fun s => (s.reg 10, s.reg 15)) = some (0xCC#8, 1#8) := by decide
/-- Vector A14: a sum of exactly 255. -/
theorem test_addReg : onNext (step (withV (withV (withV (at200 0x8AB4) 10 0x80) 11 0x7F) 15 1)) (fun s => (s.reg 10, s.reg 15)) = some (0xFF#8, 0#8) := by decide
/-- Vector A16: the flag survives. -/
theorem test_addReg_vf : onNext (step (withV (withV (at200 0x8FB4) 15 0xFF) 11 2)) (fun s => (s.reg 15, s.reg 11)) = some (1#8, 2#8) := by decide
/-- Vector A19. -/
theorem test_sub : onNext (step (withV (withV (withV (at200 0x8AB5) 10 3) 11 5) 15 1)) (fun s => (s.reg 10, s.reg 15)) = some (0xFE#8, 0#8) := by decide
/-- Vector A20: no borrow. -/
theorem test_sub_equal : onNext (step (withV (withV (at200 0x8AB5) 10 7) 11 7)) (fun s => (s.reg 10, s.reg 15)) = some (0#8, 1#8) := by decide
/-- Vector A23. -/
theorem test_shr : onNext (step (withV (withV (at200 0x8AB6) 10 5) 11 0xFF)) (fun s => (s.reg 10, s.reg 15)) = some (2#8, 1#8) := by decide
/-- Vector A26. -/
theorem test_shr_vf : onNext (step (withV (at200 0x8FF6) 15 3)) (fun s => s.reg 15) = some 1#8 := by decide
/-- Vector A28. -/
theorem test_subn : onNext (step (withV (withV (withV (at200 0x8AB7) 10 5) 11 3) 15 1)) (fun s => (s.reg 10, s.reg 15)) = some (0xFE#8, 0#8) := by decide
/-- Vector A29. -/
theorem test_subn_equal : onNext (step (withV (withV (at200 0x8AB7) 10 7) 11 7)) (fun s => (s.reg 10, s.reg 15)) = some (0#8, 1#8) := by decide
/-- Vector A30. -/
theorem test_shl : onNext (step (withV (at200 0x8ABE) 10 0x81)) (fun s => (s.reg 10, s.reg 15)) = some (2#8, 1#8) := by decide
/-- Vector A31. -/
theorem test_shl_clears : onNext (step (withV (withV (at200 0x8ABE) 10 0x40) 15 1)) (fun s => (s.reg 10, s.reg 15)) = some (0x80#8, 0#8) := by decide
/-- Vector A34. -/
theorem test_rnd : onNext (stepWith 0xA7 (at200 0xCA0F)) (fun s => s.reg 10) = some 7#8 := by decide
/-- Vector A36. -/
theorem test_rnd_zero : onNext (stepWith 0xFF (withV (at200 0xCA00) 10 0x55)) (fun s => s.reg 10) = some 0#8 := by decide
/-- Vector M2. -/
theorem test_ldI : onNext (step (at200 0xAFFF)) (fun s => s.I) = some 0xFFF#16 := by decide
/-- Vector M7: a 16-bit wrap. -/
theorem test_addI : onNext (step (withV ((at200 0xF21E).setI 0xFFFF#16) 2 2)) (fun s => (s.I, s.reg 15)) = some (1#16, 1#8) := by decide
/-- Vector M9: VF is not cleared. -/
theorem test_addI_keeps : onNext (step (withV (withV ((at200 0xF21E).setI 0x10#16) 2 0x20) 15 1)) (fun s => (s.I, s.reg 15)) = some (0x30#16, 1#8) := by decide
/-- Vector M12. -/
theorem test_ldFont : onNext (step (withV (at200 0xF029) 0 0xFF)) (fun s => s.I) = some 0x54B#16 := by decide
/-- Vector M13. -/
theorem test_ldBcd : onNext (step (withV ((at200 0xF533).setI 0x300#16) 5 0xEA)) (fun s => (s.mem.read 0x300, s.mem.read 0x301, s.mem.read 0x302)) = some (2#8, 3#8, 4#8) := by decide
/-- Vector M18. -/
theorem test_ldBcd_outside : onFault (step (withV ((at200 0xF033).setI 0xFFE#16) 0 0x7B)) (fun s => (s.mem.read 0xFFE, s.pc)) = some (2, 0#8, 0x202#16) := by decide
/-- Vector M22. -/
theorem test_stRegs : onNext (step (withV (withV ((at200 0xFF55).setI 0xFF0#16) 0 1) 15 0xEE)) (fun s => s.mem) = some [(0x200, 0xFF#8), (0x201, 0x55#8), (0xFF0, 0x01#8), (0xFFF, 0xEE#8)] := by decide
/-- Vector M21. -/
theorem test_stRegs_outside : onFault (step (withV ((at200 0xF155).setI 0xFFF#16) 0 0xAB)) (fun s => (s.mem.read 0xFFF, s.pc)) = some (2, 0#8, 0x202#16) := by decide
/-- Vector M24. -/
theorem test_ldRegs : onNext (step (withV (withBytes ((at200 0xF265).setI 0x400#16) 0x400 [0xAA, 0xBB, 0xCC, 0xDD]) 3 0x99)) (fun s => [s.reg 0, s.reg 1, s.reg 2, s.reg 3]) = some [0xAA#8, 0xBB#8, 0xCC#8, 0x99#8] := by decide
/-- Vector M26: its own instruction bytes. -/
theorem test_ldRegs_code : onNext (step ((at200 0xF165).setI 0x200#16)) (fun s => (s.reg 0, s.reg 1)) = some (0xF1#8, 0x65#8) := by decide
/-- Vector G5: wrap both ways. -/
theorem test_drw_wrap : onNext (step (withV (withV (withBytes ((at200 0xD012).setI 0x300#16) 0x300 [0xFF, 0x81]) 0 0x3C) 1 0x1F)) (fun s => (s.video[31], s.video[0], s.reg 15)) = some (0xF00000000000000F#64, 0x1000000000000008#64, 0#8) := by decide
/-- Vector G3. -/
theorem test_drw_collision : onNext (step (withBytes { (at200 0xD011).setI 0x300#16 with video := State.reset.video.set 0 1#64 } 0x300 [0x80])) (fun s => (s.video[0], s.reg 15)) = some (0#64, 1#8) := by decide
/-- Vector K1. -/
theorem test_skp : onNext (step (withKey (withV (at200 0xE29E) 2 7) 7)) (fun s => (s.pc, s.keyprev[7])) = some (0x204#16, true) := by decide
/-- Vector K5. -/
theorem test_skp_outside : onFault (step (withV (at200 0xE29E) 2 0x10)) (fun s => s.pc) = some (2, 0x202#16) := by decide
/-- Vector K4. -/
theorem test_sknp : onNext (step (withKey (withV (at200 0xE2A1) 2 7) 7)) (fun s => s.pc) = some 0x202#16 := by decide
/-- Vector K3. -/
theorem test_sknp_skips : onNext (step (withV (at200 0xE2A1) 2 7)) (fun s => s.pc) = some 0x204#16 := by decide
/-- Vector K12. -/
theorem test_ldFromDT : onNext (step ((at200 0xF407).setDT 0x3C#8)) (fun s => s.reg 4) = some 0x3C#8 := by decide
/-- Vector K10: the lowest new key. -/
theorem test_ldKey : onNext (step (withKey (withKey { withKey (at200 0xF30A) 7 with keyprev := State.reset.keyprev.set 7 true } 9) 2)) (fun s => (s.reg 3, s.pc, s.keyprev[2])) = some (2#8, 0x202#16, true) := by decide
/-- Vector K9: a held key is no transition. -/
theorem test_ldKey_held : onNext (step { withKey (at200 0xF30A) 7 with keyprev := State.reset.keyprev.set 7 true }) (fun s => (s.reg 3, s.pc)) = some (0#8, 0x200#16) := by decide
/-- Vector K15. -/
theorem test_ldDT : onNext (step ((at200 0xF415).setDT 9#8)) (fun s => s.DT) = some 0#8 := by decide
/-- Vector K14. -/
theorem test_ldST : onNext (step (withV (at200 0xF418) 4 5)) (fun s => s.ST) = some 5#8 := by decide
/-- Vector X1. -/
theorem test_unknown : onFault (step State.reset) (fun s => s.pc) = some (3, 0x202#16) := by decide
/-- Vector X14. -/
theorem test_fetch_end : onFault (step { State.reset with pc := 0xFFF#16 }) (fun s => s.pc) = some (2, 0xFFF#16) := by decide
/-- Vector X17. -/
theorem test_fetch_last : onNext (step (withBytes { State.reset with pc := 0xFFE#16 } 0xFFE [0x6A, 0x05])) (fun s => (s.reg 10, s.pc)) = some (5#8, 0x1000#16) := by decide
/-- Vector L5. -/
theorem test_load : onNext (load [0x60] (withBytes State.reset 0x200 [0x12, 0x34])) (fun s => (s.mem.read 0x200, s.mem.read 0x201)) = some (0x60#8, 0x34#8) := by decide
/-- Vector H2: no wrap. -/
theorem test_tick : onNext (act .tick ((State.reset.setDT 0#8).setST 1#8)) (fun s => (s.DT, s.ST)) = some (0#8, 0#8) := by decide
/-- Vector H5. -/
theorem test_reset_font : onNext (act .reset (withBytes State.reset 0x50 [1])) (fun s => (s.mem.read 0x50, s.mem.read 0x9F, s.mem.read 0xA0)) = some (0xF0#8, 0x80#8, 0#8) := by decide

/-! ### Witnesses: each statement's hypotheses can be met, at the ends of its ranges where it has some -/

/-- Some next state. -/
def completes (o : Host.Outcome State Fault Refusal) : Bool := (onNext o fun _ => true).getD false
/-- Some condition. -/
def raises (o : Host.Outcome State Fault Refusal) : Bool := (onFault o fun _ => true).isSome

theorem witness_EncodeOfDecodeIsTheWord : decode 0x8AB6#16 = some (.shr 0xA 0xB) := by decide
theorem witness_DecoderIsTheOpcodeMap :
    decode 0x8ABE#16 = some (.shl 0xA 0xB) ∧ ⟨"8xyE", 0x800E, 0xF00F⟩ ∈ opcodeMap ∧
      Row.accepts ⟨"8xyE", 0x800E, 0xF00F⟩ 0x8ABE#16 = true := by decide
theorem witness_OpcodeRowsAreExclusive : ⟨"00E0", 0x00E0, 0xFFFF⟩ ∈ opcodeMap ∧
    Row.accepts ⟨"00E0", 0x00E0, 0xFFFF⟩ 0x00E0#16 = true := by decide
theorem witness_StepRunsTheDecodedInstruction :
    (0xFFE#16 : Word).toNat + 1 ≤ 0xFFF ∧ decode (BitVec.ofNat 16 (0x6A * 256 + 0x05)) = some (.ldImm 0xA 5) ∧
      (withBytes { State.reset with pc := 0xFFE#16 } 0xFFE [0x6A, 0x05]).mem.read 0xFFE = 0x6A#8 ∧
      (withBytes { State.reset with pc := 0xFFE#16 } 0xFFE [0x6A, 0x05]).mem.read 0xFFF = 0x05#8 := by decide
theorem witness_FetchPastMemoryEndIsOutOfBounds :
    ({ State.reset with pc := 0xFFF#16 } : State).pc.toNat + 1 > 0xFFF := by decide
theorem witness_UnknownWordIsReportedAfterTheAdvance : fetch State.reset = some 0#16 ∧ decode 0#16 = none := by decide
theorem witness_EveryStepLatchesTheKeypad :
    completes (step (withKey (at200 0x1200) 3)) = true ∧ raises (step (withKey State.reset 3)) = true := by decide
theorem witness_ConditionsArePrecise : raises (step State.reset) = true ∧ State.reset.pc.toNat < 0xFFF ∧
    raises (step { State.reset with pc := 0xFFF#16 }) = true := by decide
theorem witness_InstructionsRaiseExactlyTheirCondition :
    raises (exec .ret State.reset) = true ∧ raises (exec (.call 0) (withStack State.reset 16 0 0)) = true ∧
    raises (exec (.stRegs 15) (State.reset.setI 0xFF1#16)) = true ∧
    raises (exec (.drw 0 0 1) (State.reset.setI 0x1000#16)) = true ∧
    raises (exec (.skp 0) (withV State.reset 0 16)) = true := by decide
theorem witness_PcAfterEachInstruction :
    fetch (at200 0xBFFF) = some 0xBFFF#16 ∧ decode 0xBFFF#16 = some (.jpV0 0xFFF) ∧
      completes (step (at200 0xBFFF)) = true := by decide
theorem witness_ReturnPopsTheStack :
    0 < (withStack State.reset 1 0 0x206#16).sp.val ∧ (withStack State.reset 16 0 0x206#16).sp.val = 16 ∧
      State.reset.sp.val = 0 := by decide
theorem witness_CallPushesTheReturnAddress :
    (withStack State.reset 15 0 0#16).sp.val < 16 ∧ (withStack State.reset 16 0 0#16).sp.val = 16 := by decide
theorem witness_CallsAndReturnsPairUp : ∃ targets : List Imm12, targets.length = 16 ∧ targets ≠ [] ∧
    State.reset.sp.val + targets.length ≤ 16 := ⟨List.replicate 16 0x300#12, by decide⟩
/-- The clause about kept entries, below `sp` and above the calls. -/
theorem witness_CallsAndReturnsPairUp_kept :
    (withStack State.reset 1 0 0x206#16).sp.val + ([0x300#12] : List Imm12).length ≤ 16 ∧
      (0 : Fin 16).val < (withStack State.reset 1 0 0x206#16).sp.val ∧
      (withStack State.reset 1 0 0x206#16).sp.val + ([0x300#12] : List Imm12).length ≤ (2 : Fin 16).val := by decide
/-- For the clauses of AddImmediateWrapsWithoutFlag, AssignAndLogicWriteNoFlag, AddReportsTheCarry,
SubtractReportsNoBorrow, ReverseSubtractReportsNoBorrow and ShiftsReportTheBitShiftedOut: a destination other than `VF`,
and a third register. -/
theorem witness_AluDestinationIsNotVF : (0xE#4 : Reg) ≠ 15#4 ∧ (0x0#4 : Reg) ≠ 0xE#4 ∧ (0x0#4 : Reg) ≠ 15#4 := by decide
theorem witness_RandomAndMasksTheSuppliedByte : (0x0F#8 : Byte).getLsbD 7 = false := by decide
theorem witness_StoreBcdStoresThreeDigits :
    (State.reset.setI 0xFFD#16).I.toNat + 2 ≤ 0xFFF ∧ (State.reset.setI 0xFFE#16).I.toNat + 2 > 0xFFF := by decide
theorem witness_StoreRegistersStoresABlock :
    (State.reset.setI 0xFF0#16).I.toNat + (15#4 : Reg).toNat ≤ 0xFFF ∧
      (State.reset.setI 0xFFF#16).I.toNat + (1#4 : Reg).toNat > 0xFFF := by decide
theorem witness_LoadRegistersLoadsABlock :
    (State.reset.setI 0xFFF#16).I.toNat + (0#4 : Reg).toNat ≤ 0xFFF ∧
      (State.reset.setI 0x1000#16).I.toNat + (0#4 : Reg).toNat > 0xFFF := by decide
theorem witness_StoreThenLoadRestoresRegisters :
    (State.reset.setI 0xFF0#16).I.toNat + (15#4 : Reg).toNat ≤ 0xFFF := by decide
theorem witness_StoredBytesAreFetched :
    ((State.reset.setI 0xFFE#16).I.toNat + (1#4 : Reg).toNat ≤ 0xFFF ∧
      (State.reset.setI 0xFFD#16).I.toNat + 2 ≤ 0xFFF ∧ (0xFFE#16 : Word).toNat + 1 ≤ 0xFFF) ∧
    storesAt State.reset (.ldRegs 15) = none ∧ completes (exec (.ldRegs 15) State.reset) = true := by decide
theorem witness_ClearScreenClearsEveryCell :
    (∀ i ∈ [Instr.ldImm 1 5, .ldFont 1], ∀ x y n, i ≠ .drw x y n) ∧
      ∃ t, execSeq (.cls :: [.ldImm 1 5, .ldFont 1]) State.reset = .next t := ⟨by simp, _, rfl⟩
theorem witness_DrawXorsTheSprite :
    (State.reset.setI 0xFF1#16).I.toNat + (15#4 : Nibble).toNat - 1 ≤ 0xFFF ∧
      (15#4 : Nibble) ≠ 0#4 ∧ (State.reset.setI 0xFF2#16).I.toNat + (15#4 : Nibble).toNat - 1 > 0xFFF ∧
      completes (exec (.drw 0 1 0) (State.reset.setI 0x1000#16)) = true := by decide
theorem witness_DoubleDrawRestoresTheScreen : (0#4 : Reg) ≠ 15#4 ∧ (1#4 : Reg) ≠ 15#4 ∧
    (State.reset.setI 0xFFB#16).I.toNat + (5#4 : Nibble).toNat - 1 ≤ 0xFFF := by decide
theorem witness_KeySkipsTestTheNamedKey :
    ((withV State.reset 0 15).reg 0).toNat = (15 : Fin 16).val ∧ 15 < ((withV State.reset 0 16).reg 0).toNat := by decide
theorem witness_WaitForKeyTakesTheLowestNewKey :
    ((withKey (withKey State.reset 15) 2).keypad[2] = true ∧ (withKey (withKey State.reset 15) 2).keyprev[2] = false ∧
      ∀ j : Fin 16, j < 2 → ¬((withKey (withKey State.reset 15) 2).keypad[j] = true ∧
        (withKey (withKey State.reset 15) 2).keyprev[j] = false)) ∧
    (∀ k : Fin 16, ¬(State.reset.keypad[k] = true ∧ State.reset.keyprev[k] = false)) := by decide
theorem witness_WaitingStepStaysAtTheInstruction :
    fetch (at200 0xF30A) = some 0xF30A#16 ∧ decode 0xF30A#16 = some (.ldKey 3) ∧
      ∀ k : Fin 16, ¬((at200 0xF30A).keypad[k] = true ∧ (at200 0xF30A).keyprev[k] = false) := by decide
theorem witness_OnlyTimerWritesMoveTheTimers :
    onNext (step (withV (at200 0xF415) 4 5)) (fun s => s.DT) = some 5#8 ∧
      onNext (step (withV (at200 0xF418) 4 5)) (fun s => s.ST) = some 5#8 ∧ raises (step State.reset) = true := by decide
theorem witness_RegisterFrame :
    completes (exec (.ldRegs 2) State.reset) = true ∧ writesReg (.ldRegs 2) 3 = false ∧
      writesReg (.ldRegs 2) 2 = true := by decide
theorem witness_MemoryFrame :
    completes (exec (.stRegs 15) (State.reset.setI 0xFF0#16)) = true ∧
      storesAt (State.reset.setI 0xFF0#16) (.stRegs 15) = some (0xFF0, 16) ∧
      completes (exec .cls State.reset) = true ∧ storesAt State.reset .cls = none := by decide
theorem witness_SpecialRegisterFrame : completes (exec (.addReg 1 2) State.reset) = true := by decide
theorem witness_SoundTimerIsNeverRead :
    completes (step (at200 0xF418)) = true ∧ completes (step (at200 0x1200)) = true ∧
      raises (step State.reset) = true := by decide
theorem witness_OnlyWaitForKeyReadsKeyprev : ∀ op x, fetch (at200 0x1200) = some op → decode op ≠ some (.ldKey x) := by
  intro op x h
  have : fetch (at200 0x1200) = some 0x1200#16 := by decide
  obtain rfl : 0x1200#16 = op := Option.some.inj (this.symm.trans h)
  exact fun e => nomatch (show decode 0x1200#16 = some (.jp 0x200) by decide).symm.trans e
theorem witness_StepKeepsTheInvariant :
    (at200 0x2ABC).Inv ∧ completes (step (at200 0x2ABC)) = true ∧ (at200 0x00EE).Inv ∧
      raises (step (at200 0x00EE)) = true := by decide
theorem witness_ReachableStatesMeetTheInvariant : Reachable (State.reset.setKey 7 true) :=
  .move (.setKey 7 true) .reset rfl
theorem witness_EveryMoveKeepsTheInvariant :
    State.reset.Inv ∧ completes (act (.load [0x12, 0x00]) State.reset) = true ∧
      completes (act .tick State.reset) = true ∧ completes (act (.setKey 15 true) State.reset) = true ∧
      raises (act (.step 0) State.reset) = true := by decide
theorem witness_ResetLeavesTheListedValues : fontTable[79]? = some 0x80#8 ∧ 0x4F < fontBase ∧ fontBase + 80 ≤ 0xA0 := by
  decide
theorem witness_LoadCopiesTheBytes : (List.replicate 3584 0xAA#8).length ≤ 3584 ∧
    ([0x12#8] : List Byte)[0]? = some 0x12#8 :=
  ⟨Nat.le_of_eq List.length_replicate, rfl⟩
theorem witness_OversizedLoadChangesNothing : (List.replicate 3585 0xAA#8).length > 3584 := by
  rw [List.length_replicate]; omega
theorem witness_EmptyMemoryRunsOffTheEnd :
    (State.reset.pc.toNat + 1 ≤ 0xFFF ∧ State.reset.mem.read State.reset.pc.toNat = 0#8 ∧
      State.reset.mem.read (State.reset.pc.toNat + 1) = 0#8) ∧ (1792 : Nat) ≤ 1792 ∧ (1791 : Nat) < 1792 := by decide

end Sys2Proof.Tests
end

section
/-! SUPPORT. What an instruction does when it completes, as a relation with one constructor per way to complete, so that
statements over all instructions split along its constructors and use the field lemmas of the named updates. -/

namespace Sys2Proof.Machine

variable {s t : State} {i : Instr}

/-! ### A result and its flag, field by field (R111) -/

@[simp] theorem setResultFlag_I (x : Reg) (b : Byte) (f : Bool) : (s.setResultFlag x b f).I = s.I := rfl
@[simp] theorem setResultFlag_pc (x : Reg) (b : Byte) (f : Bool) : (s.setResultFlag x b f).pc = s.pc := rfl
@[simp] theorem setResultFlag_stack (x : Reg) (b : Byte) (f : Bool) : (s.setResultFlag x b f).stack = s.stack := rfl
@[simp] theorem setResultFlag_sp (x : Reg) (b : Byte) (f : Bool) : (s.setResultFlag x b f).sp = s.sp := rfl
@[simp] theorem setResultFlag_DT (x : Reg) (b : Byte) (f : Bool) : (s.setResultFlag x b f).DT = s.DT := rfl
@[simp] theorem setResultFlag_ST (x : Reg) (b : Byte) (f : Bool) : (s.setResultFlag x b f).ST = s.ST := rfl
@[simp] theorem setResultFlag_mem (x : Reg) (b : Byte) (f : Bool) : (s.setResultFlag x b f).mem = s.mem := rfl
@[simp] theorem setResultFlag_keypad (x : Reg) (b : Byte) (f : Bool) : (s.setResultFlag x b f).keypad = s.keypad := rfl
@[simp] theorem setResultFlag_video (x : Reg) (b : Byte) (f : Bool) : (s.setResultFlag x b f).video = s.video := rfl
@[simp] theorem setResultFlag_keyprev (x : Reg) (b : Byte) (f : Bool) :
    (s.setResultFlag x b f).keyprev = s.keyprev := rfl
@[simp] theorem setResultFlag_rndIn (x : Reg) (b : Byte) (f : Bool) : (s.setResultFlag x b f).rndIn = s.rndIn := rfl
@[simp] theorem setResultFlag_draws (x : Reg) (b : Byte) (f : Bool) : (s.setResultFlag x b f).draws = s.draws := rfl

/-- With `x = 15` the flag survives. -/
@[simp] theorem setResultFlag_reg (x : Reg) (b : Byte) (f : Bool) (r : Reg) :
    (s.setResultFlag x b f).reg r = if r = 15#4 then flagByte f else if r = x then b else s.reg r := by
  simp [State.setResultFlag]

/-! ### The meanings that may raise a condition, when they complete -/

/-- A range-checked access that completes was in range. -/
theorem accessing_next {cnt : Nat} {u : State} :
    s.accessing cnt u = .next t ↔ s.dataInRange cnt = true ∧ u = t := by
  obtain ⟨hr, e⟩ | ⟨hr, e⟩ := accessing_cases s u cnt <;> simp [hr, e]

/-- A skip on a key that completes was on a key that exists. -/
theorem skipOnKey_next {x : Reg} {p : Bool} :
    s.skipOnKey x p = .next t ↔ ∃ k : Fin 16, (s.reg x).toNat = k.val ∧ s.skipIf (s.keypad[k] == p) = t := by
  obtain ⟨k, hk, e⟩ | ⟨hk, e⟩ := skipOnKey_cases s x p
  · simp [hk, e, ← Fin.ext_iff]
  · simp only [e, reduceCtorEq, false_iff]
    rintro ⟨k, hk', -⟩
    omega

theorem execRet_next : execRet s = .next t ↔ ∃ h : 0 < s.sp.val, s.popPc h = t := by
  obtain ⟨h, e⟩ | ⟨h, e⟩ := execRet_cases s <;> simp [h, e]

theorem execCall_next {nnn : Imm12} :
    execCall nnn s = .next t ↔ ∃ h : s.sp.val < 16, (s.push s.pc h).setPc (zext16 nnn) = t := by
  obtain ⟨h, e⟩ | ⟨h, e⟩ := execCall_cases nnn s <;> simp [h, e]

/-- `Completes s i t`: run in `s`, the instruction `i` completes and leaves `t`. -/
inductive Completes (s : State) : Instr → State → Prop
  | cls : Completes s .cls (s.setVideo Video.clear)
  | ret (h : 0 < s.sp.val) : Completes s .ret (s.popPc h)
  | jp (nnn : Imm12) : Completes s (.jp nnn) (s.setPc (zext16 nnn))
  | call (nnn : Imm12) (h : s.sp.val < 16) :
      Completes s (.call nnn) ((s.push s.pc h).setPc (zext16 nnn))
  | seImm (x : Reg) (kk : Byte) : Completes s (.seImm x kk) (s.skipIf (s.reg x == kk))
  | sneImm (x : Reg) (kk : Byte) : Completes s (.sneImm x kk) (s.skipIf (s.reg x != kk))
  | seReg (x y : Reg) : Completes s (.seReg x y) (s.skipIf (s.reg x == s.reg y))
  | ldImm (x : Reg) (kk : Byte) : Completes s (.ldImm x kk) (s.setReg x kk)
  | addImm (x : Reg) (kk : Byte) : Completes s (.addImm x kk) (s.setReg x (s.reg x + kk))
  | ldReg (x y : Reg) : Completes s (.ldReg x y) (s.setReg x (s.reg y))
  | orReg (x y : Reg) : Completes s (.orReg x y) (s.setReg x (s.reg x ||| s.reg y))
  | andReg (x y : Reg) : Completes s (.andReg x y) (s.setReg x (s.reg x &&& s.reg y))
  | xorReg (x y : Reg) : Completes s (.xorReg x y) (s.setReg x (s.reg x ^^^ s.reg y))
  | addReg (x y : Reg) :
      Completes s (.addReg x y) (s.setResultFlag x (s.reg x + s.reg y) (carry (s.reg x) (s.reg y)))
  | sub (x y : Reg) :
      Completes s (.sub x y) (s.setResultFlag x (s.reg x - s.reg y) (notBorrow (s.reg x) (s.reg y)))
  | shr (x y : Reg) : Completes s (.shr x y) (s.setResultFlag x (s.reg x >>> 1) (shiftedOutRight (s.reg x)))
  | subn (x y : Reg) :
      Completes s (.subn x y) (s.setResultFlag x (s.reg y - s.reg x) (notBorrow (s.reg y) (s.reg x)))
  | shl (x y : Reg) : Completes s (.shl x y) (s.setResultFlag x (s.reg x <<< 1) (shiftedOutLeft (s.reg x)))
  | sneReg (x y : Reg) : Completes s (.sneReg x y) (s.skipIf (s.reg x != s.reg y))
  | ldI (nnn : Imm12) : Completes s (.ldI nnn) (s.setI (zext16 nnn))
  | jpV0 (nnn : Imm12) : Completes s (.jpV0 nnn) (s.setPc ((s.reg 0#4).zeroExtend 16 + zext16 nnn))
  | rnd (x : Reg) (kk : Byte) : Completes s (.rnd x kk) (s.setReg x (s.rndByte &&& kk)).countDraw
  | drw (x y : Reg) (n : Nibble) (h : s.dataInRange n.toNat = true) :
      Completes s (.drw x y n) ((s.setVideo (s.sprite x y n).1).setVF (flagByte (s.sprite x y n).2))
  | skp (x : Reg) (k : Fin 16) (h : (s.reg x).toNat = k.val) : Completes s (.skp x) (s.skipIf (s.keypad[k] == true))
  | sknp (x : Reg) (k : Fin 16) (h : (s.reg x).toNat = k.val) : Completes s (.sknp x) (s.skipIf (s.keypad[k] == false))
  | ldFromDT (x : Reg) : Completes s (.ldFromDT x) (s.setReg x s.DT)
  | ldKey_hold (x : Reg) (h : s.newKey = none) : Completes s (.ldKey x) s.hold
  | ldKey_take (x : Reg) (k : Fin 16) (h : s.newKey = some k) :
      Completes s (.ldKey x) (s.setReg x (BitVec.ofNat 8 k.val))
  | ldDT (x : Reg) : Completes s (.ldDT x) (s.setDT (s.reg x))
  | ldST (x : Reg) : Completes s (.ldST x) (s.setST (s.reg x))
  | addI_flag (x : Reg) (h : indexOverflow s.I (s.reg x) = true) :
      Completes s (.addI x) ((s.addIndex (s.reg x)).setVF 1#8)
  | addI_noflag (x : Reg) (h : indexOverflow s.I (s.reg x) = false) : Completes s (.addI x) (s.addIndex (s.reg x))
  | ldFont (x : Reg) : Completes s (.ldFont x) (s.setI (fontAddress (s.reg x)))
  | ldBcd (x : Reg) (h : s.dataInRange 3 = true) :
      Completes s (.ldBcd x) (s.setMem (s.mem.writeBytes (s.ea 0) (bcdDigits (s.reg x))))
  | stRegs (x : Reg) (h : s.dataInRange (x.toNat + 1) = true) :
      Completes s (.stRegs x) (s.setMem (s.mem.writeBytes (s.ea 0) (s.regBytes (x.toNat + 1))))
  | ldRegs (x : Reg) (h : s.dataInRange (x.toNat + 1) = true) :
      Completes s (.ldRegs x) (s.loadRegs (x.toNat + 1))

theorem Completes.exec_eq (h : Completes s i t) : exec i s = .next t := by
  cases h
  case ret h => exact execRet_next.2 ⟨h, rfl⟩
  case call h => exact execCall_next.2 ⟨h, rfl⟩
  case skp k h | sknp k h => exact skipOnKey_next.2 ⟨k, h, rfl⟩
  case drw h | ldBcd h | stRegs h | ldRegs h => exact accessing_in h
  case ldKey_hold h | ldKey_take h => simp [exec, execLdKey, h]
  case addI_flag h | addI_noflag h => simp [exec, execAddI, h]
  all_goals rfl

theorem completes_of_exec_eq (h : exec i s = .next t) : Completes s i t := by
  cases i
  case ret =>
    obtain ⟨hsp, rfl⟩ := execRet_next.1 h
    exact .ret hsp
  case call nnn =>
    obtain ⟨hsp, rfl⟩ := execCall_next.1 h
    exact .call nnn hsp
  case skp x =>
    obtain ⟨k, hk, rfl⟩ := skipOnKey_next.1 h
    exact .skp x k hk
  case sknp x =>
    obtain ⟨k, hk, rfl⟩ := skipOnKey_next.1 h
    exact .sknp x k hk
  case drw | ldBcd | stRegs | ldRegs =>
    obtain ⟨hr, rfl⟩ := accessing_next.1 h
    constructor
    exact hr
  case ldKey x =>
    simp only [exec, execLdKey] at h
    cases hk : s.newKey with
    | none => cases hk ▸ h; exact .ldKey_hold x hk
    | some k => cases hk ▸ h; exact .ldKey_take x k hk
  case addI x =>
    obtain rfl := Host.Outcome.next.inj h
    split
    · next hf => exact .addI_flag x hf
    · next hf => exact .addI_noflag x (by simpa using hf)
  all_goals
    obtain rfl := Host.Outcome.next.inj h
    constructor

/-- The relation is `exec`'s own: an execution completes exactly as `Completes` says. -/
theorem exec_next_iff : exec i s = .next t ↔ Completes s i t :=
  ⟨completes_of_exec_eq, Completes.exec_eq⟩

/-! ### The step that completes (R80) -/

theorem step_of_decode {op : Word} (hf : fetch s = some op) (hd : decode op = some i) :
    step s = endStep (exec i s.advance) := by
  simp only [step, hf, hd]

/-- A step that completes has run the decoded instruction to its end and latched the keypad. -/
theorem completes_of_step {op : Word} (hf : fetch s = some op) (hd : decode op = some i) (h : step s = .next t) :
    ∃ u, Completes s.advance i u ∧ t = u.latch := by
  rw [step_of_decode hf hd, endStep_next] at h
  obtain ⟨u, hu, rfl⟩ := h
  exact ⟨u, exec_next_iff.1 hu, rfl⟩

/-! ### What an instruction leaves unchanged, one state component after another (R28) -/

section
namespace Completes

variable (h : Completes s i t)
include h

theorem I_eq (hLdI : ∀ nnn, i ≠ .ldI nnn) (hAddI : ∀ x, i ≠ .addI x) (hFont : ∀ x, i ≠ .ldFont x) :
    t.I = s.I := by
  cases h
  case ldI nnn => exact absurd rfl (hLdI nnn)
  case addI_flag x _ | addI_noflag x _ => exact absurd rfl (hAddI x)
  case ldFont x => exact absurd rfl (hFont x)
  all_goals simp

theorem stack_eq (hCall : ∀ nnn, i ≠ .call nnn) : t.stack = s.stack := by
  cases h
  case call nnn _ => exact absurd rfl (hCall nnn)
  all_goals simp

theorem sp_eq (hRet : i ≠ .ret) (hCall : ∀ nnn, i ≠ .call nnn) : t.sp = s.sp := by
  cases h
  case ret => exact absurd rfl hRet
  case call nnn _ => exact absurd rfl (hCall nnn)
  all_goals simp

theorem DT_eq (hDT : ∀ x, i ≠ .ldDT x) : t.DT = s.DT := by
  cases h
  case ldDT x => exact absurd rfl (hDT x)
  all_goals simp

theorem ST_eq (hST : ∀ x, i ≠ .ldST x) : t.ST = s.ST := by
  cases h
  case ldST x => exact absurd rfl (hST x)
  all_goals simp

theorem video_eq (hCls : i ≠ .cls) (hDrw : ∀ x y n, i ≠ .drw x y n) : t.video = s.video := by
  cases h
  case cls => exact absurd rfl hCls
  case drw x y n _ => exact absurd rfl (hDrw x y n)
  all_goals simp

theorem draws_eq (hRnd : ∀ x kk, i ≠ .rnd x kk) : t.draws = s.draws := by
  cases h
  case rnd x kk => exact absurd rfl (hRnd x kk)
  all_goals simp

/-- No instruction writes the keypad, its latch or the host's random byte: the latch is the step's (R85). -/
theorem host_fields_eq : t.keypad = s.keypad ∧ t.keyprev = s.keyprev ∧ t.rndIn = s.rndIn := by
  cases h <;> simp

/-- The general registers outside `writesReg` (R11). -/
theorem reg_eq {r : Reg} (hr : writesReg i r = false) : t.reg r = s.reg r := by
  cases h
  case ldImm x _ | addImm x _ | ldReg x _ | orReg x _ | andReg x _ | xorReg x _ | rnd x _ | ldFromDT x
      | ldKey_take x _ _ =>
    have hx : r ≠ x := by simpa [writesReg] using hr
    simp [hx]
  case addReg x _ | sub x _ | shr x _ | subn x _ | shl x _ =>
    obtain ⟨hx, hF⟩ : r ≠ x ∧ r ≠ 15#4 := by simpa [writesReg] using hr
    simp [hx, hF]
  case drw | addI_flag =>
    have hF : r ≠ 15#4 := by simpa [writesReg] using hr
    simp [hF]
  case ldRegs x _ =>
    have hx : ¬r.toNat < x.toNat + 1 := by simpa [writesReg, Nat.lt_succ_iff] using hr
    rw [loadRegs_reg s (by omega), if_neg hx]
  all_goals simp

end Completes
end

/-! ### The program counter (R13) -/

/-- Two advances, a taken skip (D26). -/
theorem pc_add_two_add_two (p : Word) : p + 2#16 + 2#16 = p + 4#16 := by
  rw [BitVec.add_assoc]; rfl

theorem newlyDown_iff {k : Fin 16} : s.newlyDown k = true ↔ s.keypad[k] = true ∧ s.keyprev[k] = false := by
  simp [State.newlyDown]

/-- A completing instruction, run after the advance, leaves `pc` as the table of R13 says. -/
theorem Completes.pc_eq (h : Completes s.advance i t) : t.pc = pcAfter s i := by
  cases h
  case ret hsp =>
    have hlt : s.sp.val - 1 < 16 := by omega
    simp [pcAfter, hlt]
  case jp | call | jpV0 => simp [pcAfter, zext16]
  case seImm | sneImm | seReg | sneReg => simp [pcAfter, pc_add_two_add_two]
  case skp x k hk | sknp x k hk =>
    rw [advance_reg] at hk
    cases hp : s.keypad[k.val] <;> simp [pcAfter, pc_add_two_add_two, hk, hp]
  case ldKey_hold x hk =>
    have noKey : ¬∃ k : Fin 16, s.keypad[k] = true ∧ s.keyprev[k] = false := by
      rintro ⟨k, hkey⟩
      simpa [newKey_none.1 hk k] using newlyDown_iff (s := s.advance).2 hkey
    rw [pcAfter, if_neg noKey, hold_pc, advance_pc, BitVec.add_sub_cancel]
  case ldKey_take x k hk =>
    have newKey : ∃ k : Fin 16, s.keypad[k] = true ∧ s.keyprev[k] = false :=
      ⟨k, newlyDown_iff.1 (newKey_some hk).1⟩
    rw [pcAfter, if_pos newKey, setReg_pc, advance_pc]
  all_goals simp [pcAfter]

end Sys2Proof.Machine
end

section
/-! SUPPORT. Noninterference: neither the sound timer nor, but for `Fx0A`, the key latch is read, so executing commutes
with changing them. -/

namespace Sys2Proof.Machine

variable {s : State} {i : Instr}

/-- An outcome with the state it carries changed. -/
def mapOutcome (g : State → State) : Host.Outcome State Fault Refusal → Host.Outcome State Fault Refusal
  | .next s => .next (g s)
  | .fault f => .fault (f.mapLeft g)
  | .refused r => .refused r

theorem endStep_eq_mapOutcome (o : Host.Outcome State Fault Refusal) : endStep o = mapOutcome State.latch o := by
  cases o <;> rfl

theorem mapOutcome_mapOutcome (g g' : State → State) (o : Host.Outcome State Fault Refusal) :
    mapOutcome g' (mapOutcome g o) = mapOutcome (g' ∘ g) o := by
  cases o with
  | fault f => cases f <;> rfl
  | _ => rfl

theorem mapOutcome_id (o : Host.Outcome State Fault Refusal) : mapOutcome id o = o := by
  cases o with
  | fault f => cases f <;> rfl
  | _ => rfl

/-- The state that no instruction reads, but for `Fx0A`: the sound timer changed by `f` and the key latch by
`g`, everything else kept. -/
def State.mapHidden (f : Byte → Byte) (g : Vector Bool 16 → Vector Bool 16) (s : State) : State :=
  { s with ST := f s.ST, keyprev := g s.keyprev }

variable (f : Byte → Byte) (g : Vector Bool 16 → Vector Bool 16)

theorem skipIf_mapHidden (c : Bool) : (s.mapHidden f g).skipIf c = (s.skipIf c).mapHidden f g := by
  cases c <;> rfl

theorem loadRegs_mapHidden (k : Nat) : (s.mapHidden f g).loadRegs k = (s.loadRegs k).mapHidden f g := by
  induction k with
  | zero => rfl
  | succ k ih =>
    rw [State.loadRegs, ih, State.loadRegs]
    rfl

/-- The range check and the condition do not depend on the timer or the latch. -/
theorem accessing_mapHidden {t t' : State} (cnt : Nat) (ht : t' = t.mapHidden f g) :
    (s.mapHidden f g).accessing cnt t' = mapOutcome (State.mapHidden f g) (s.accessing cnt t) := by
  subst ht
  refine Eq.trans ?_ (apply_ite (mapOutcome (State.mapHidden f g)) (s.dataInRange cnt = true) _ _).symm
  rfl

theorem skipOnKey_mapHidden (x : Reg) (p : Bool) :
    (s.mapHidden f g).skipOnKey x p = mapOutcome (State.mapHidden f g) (s.skipOnKey x p) := by
  have sameKey : (s.mapHidden f g).keyNumber x = s.keyNumber x := rfl
  unfold State.skipOnKey
  rw [sameKey]
  cases s.keyNumber x with
  | none => rfl
  | some k => exact congrArg Host.Outcome.next (skipIf_mapHidden f g _)

/-- Running an instruction commutes with changing the timer, unless it is `Fx18`, which overwrites it, and with changing
the latch, unless it is `Fx0A`, which reads it. -/
theorem exec_mapHidden (hST : ∀ x, i = .ldST x → f = id) (hKey : ∀ x, i = .ldKey x → g = id) :
    exec i (s.mapHidden f g) = mapOutcome (State.mapHidden f g) (exec i s) := by
  cases i
  case ldST x => obtain rfl := hST x rfl; rfl
  case ldKey x =>
    obtain rfl := hKey x rfl
    have sameKey : (s.mapHidden f id).newKey = s.newKey := rfl
    simp only [exec, execLdKey, sameKey]
    cases s.newKey <;> rfl
  case ret =>
    refine Eq.trans ?_ (apply_dite (mapOutcome (State.mapHidden f g)) (0 < s.sp.val) _ _).symm
    rfl
  case call nnn =>
    refine Eq.trans ?_ (apply_dite (mapOutcome (State.mapHidden f g)) (s.sp.val < 16) _ _).symm
    rfl
  case addI x =>
    refine congrArg Host.Outcome.next (Eq.trans ?_ (apply_ite (State.mapHidden f g) _ _ _).symm)
    rfl
  case seImm | sneImm | seReg | sneReg => exact congrArg Host.Outcome.next (skipIf_mapHidden f g _)
  case skp x | sknp x => exact skipOnKey_mapHidden f g x _
  case drw | ldBcd | stRegs => exact accessing_mapHidden f g _ rfl
  case ldRegs => exact accessing_mapHidden f g _ (loadRegs_mapHidden f g _)
  all_goals rfl

/-- A whole step commutes with the change, too; at its end the latch is taken anew, so a change of the latch is gone. -/
theorem step_mapHidden (hST : ∀ op x, fetch s = some op → decode op = some (.ldST x) → f = id)
    (hKey : ∀ op x, fetch s = some op → decode op = some (.ldKey x) → g = id) :
    step (s.mapHidden f g) = mapOutcome (State.mapHidden f id) (step s) := by
  cases hf : fetch s with
  | none =>
    have hf' : fetch (s.mapHidden f g) = none := hf
    simp only [step, hf, hf']
    rfl
  | some op =>
    have hf' : fetch (s.mapHidden f g) = some op := hf
    cases hd : decode op with
    | none =>
      simp only [step, hf, hf', hd]
      rfl
    | some i =>
      have run : exec i (s.advance.mapHidden f g) = mapOutcome (State.mapHidden f g) (exec i s.advance) :=
        exec_mapHidden f g (fun x e => hST op x hf (e ▸ hd)) (fun x e => hKey op x hf (e ▸ hd))
      have comm : State.latch ∘ State.mapHidden f g = State.mapHidden f id ∘ State.latch := rfl
      calc step (s.mapHidden f g)
        _ = mapOutcome State.latch (exec i (s.advance.mapHidden f g)) := by
          rw [step_of_decode hf' hd, endStep_eq_mapOutcome]; rfl
        _ = mapOutcome (State.mapHidden f id) (mapOutcome State.latch (exec i s.advance)) := by
          rw [run, mapOutcome_mapOutcome, comm, mapOutcome_mapOutcome]
        _ = mapOutcome (State.mapHidden f id) (step s) := by
          rw [step_of_decode hf hd, endStep_eq_mapOutcome]

/-- `Fx18` writes the register, whatever the timer held. -/
theorem step_ldST {op : Word} {x : Reg} (hf : fetch s = some op) (hd : decode op = some (.ldST x)) :
    step s = .next (s.advance.setST (s.reg x)).latch := by
  rw [step_of_decode hf hd]
  rfl

end Sys2Proof.Machine
end

section
/-! The obligations of 10_state.md. -/

namespace Sys2Proof.Machine

/-- Settles O14: the completing instruction's `pc`, which the latch keeps. -/
theorem pcAfterEachInstruction : Obligations.PcAfterEachInstruction := by
  unfold Obligations.PcAfterEachInstruction
  intro s t op i hf hd h
  obtain ⟨u, hu, rfl⟩ := completes_of_step hf hd h
  exact hu.pc_eq

/-- Settles O45, by the frame of a completing execution. -/
theorem registerFrame : Obligations.RegisterFrame := by
  unfold Obligations.RegisterFrame
  intro i s t h r hr
  exact (exec_next_iff.1 h).reg_eq hr

/-- Settles O47, assembled from the frames of the single components. -/
theorem specialRegisterFrame : Obligations.SpecialRegisterFrame := by
  unfold Obligations.SpecialRegisterFrame
  intro i s t h
  have h := exec_next_iff.1 h
  obtain ⟨hkeypad, hkeyprev, hrnd⟩ := h.host_fields_eq
  exact ⟨fun hLdI hx => h.I_eq hLdI (fun x => (hx x).1) (fun x => (hx x).2), h.stack_eq, h.sp_eq, h.DT_eq, h.ST_eq,
    h.video_eq, hkeypad, hkeyprev, hrnd, h.draws_eq⟩

/-- Settles O48: `Fx18` overwrites the timer, and a step of anything else commutes with changing it. -/
theorem soundTimerIsNeverRead : Obligations.SoundTimerIsNeverRead := by
  unfold Obligations.SoundTimerIsNeverRead
  intro s b
  by_cases hST : ∃ op x, fetch s = some op ∧ decode op = some (.ldST x)
  · obtain ⟨op, x, hf, hd⟩ := hST
    have run := step_ldST hf hd
    have run' : step { s with ST := b } = step s := by
      rw [run]
      exact step_ldST (s := { s with ST := b }) hf hd
    constructor
    · intro t h
      exact ⟨t.ST, run'.trans h, .inr ⟨rfl, op, x, hf, hd⟩⟩
    · intro f h
      cases run.symm.trans h
  · have run : step { s with ST := b } = mapOutcome (fun t => { t with ST := b }) (step s) :=
      step_mapHidden (fun _ => b) id (fun op x hf hd => absurd ⟨op, x, hf, hd⟩ hST) fun _ _ _ _ => rfl
    constructor
    · intro t h
      exact ⟨b, by rw [run, h]; rfl, .inl rfl⟩
    · intro f h
      rw [run, h]; rfl

/-- Settles O49: a step commutes with a change of the latch alone, and none of the change is left after it. -/
theorem onlyWaitForKeyReadsKeyprev : Obligations.OnlyWaitForKeyReadsKeyprev := by
  unfold Obligations.OnlyWaitForKeyReadsKeyprev
  intro s kp hnot
  calc step { s with keyprev := kp }
    _ = mapOutcome (State.mapHidden id id) (step s) :=
      step_mapHidden id (fun _ => kp) (fun _ _ _ _ => rfl) fun op x hf hd => absurd hd (hnot op x hf)
    _ = step s := mapOutcome_id _

/-- Settles O50, part by part of the invariant. -/
theorem resetMeetsTheInvariant : Obligations.ResetMeetsTheInvariant := by
  unfold Obligations.ResetMeetsTheInvariant
  have hstack : ∀ k : Fin 16, State.reset.stack[k].toNat ≤ 0x1000 := by simp [State.reset]
  have hpc : State.reset.pc.toNat ≤ 0x10FE := by decide
  exact ⟨wf_nil, hstack, hpc⟩

end Sys2Proof.Machine
end

section
/-! SUPPORT. Memory after a store: what a read and a fetch give over the stored bytes and beside them, and which
instructions store (20_memory.md rules R43, R48, R55). -/

namespace Sys2Proof.Machine

variable {s t : State} {i : Instr}

/-! ### Reading back what was stored (R42) -/

/-- The block `Fx55` stores (R124): byte `k - a` is that register's. -/
theorem read_writeBytes_regBytes (m : Memory) (a k : Nat) (s : State) (x : Reg) :
    (m.writeBytes a (s.regBytes (x.toNat + 1))).read k =
      if a ≤ k ∧ k ≤ a + x.toNat then s.reg (BitVec.ofNat 4 (k - a)) else m.read k := by
  have hx := x.isLt
  have hlen : (s.regBytes (x.toNat + 1)).length = x.toNat + 1 := regBytes_length s (by omega)
  by_cases hin : a ≤ k ∧ k ≤ a + x.toNat
  · obtain ⟨j, rfl⟩ := Nat.exists_eq_add_of_le hin.1
    have hreg : (BitVec.ofNat 4 j).toNat = j := Nat.mod_eq_of_lt (by omega)
    rw [if_pos hin, Nat.add_sub_cancel_left, read_writeBytes_in m a _ j (by omega), regBytes_getElem s _ _ hreg]
  · rw [if_neg hin, read_writeBytes_out m a k _ (by omega)]

/-- The digits `Fx33` stores (R123): hundreds, tens and units, in this order. -/
theorem read_writeBytes_bcdDigits (m : Memory) (a k : Nat) (v : Byte) :
    (m.writeBytes a (bcdDigits v)).read k =
      if k = a then BitVec.ofNat 8 (v.toNat / 100)
      else if k = a + 1 then BitVec.ofNat 8 (v.toNat / 10 % 10)
      else if k = a + 2 then BitVec.ofNat 8 (v.toNat % 10)
      else m.read k := by
  by_cases hin : a ≤ k ∧ k < a + 3
  · obtain ⟨j, rfl⟩ := Nat.exists_eq_add_of_le hin.1
    have hj : j < 3 := by omega
    rw [read_writeBytes_in m a (bcdDigits v) j hj]
    interval_cases j <;> simp [bcdDigits]
  · rw [read_writeBytes_out m a k (bcdDigits v) (show k < a ∨ a + 3 ≤ k by omega),
      if_neg (by omega), if_neg (by omega), if_neg (by omega)]

/-! ### Fetching from a given address (R81) -/

/-- A fetch inside memory: the byte at the lower address is the high byte (R43). -/
theorem fetch_at (t : State) {p : Word} (hp : p.toNat + 1 ≤ 0xFFF) :
    fetch { t with pc := p } = some (wordOfBytes (t.mem.read p.toNat) (t.mem.read (p.toNat + 1))) :=
  fetch_some.2 ⟨hp, rfl⟩

/-- What a fetch reads depends on memory alone. -/
theorem fetch_at_congr (hmem : t.mem = s.mem) (p : Word) : fetch { t with pc := p } = fetch { s with pc := p } := by
  simp only [fetch, hmem]

/-! ### Where a completing instruction stores (R48) -/

/-- An instruction that stores nothing leaves memory as it was. -/
theorem Completes.mem_eq (h : Completes s i t) (hi : storesAt s i = none) : t.mem = s.mem := by
  cases h
  case ldBcd | stRegs => cases hi
  all_goals simp

/-- An instruction that stores writes `width` bytes at ascending addresses from `a`, and no others. -/
theorem Completes.mem_writeBytes {a width : Nat} (h : Completes s i t) (hi : storesAt s i = some (a, width)) :
    ∃ bs : List Byte, bs.length = width ∧ t.mem = s.mem.writeBytes a bs := by
  cases h
  case ldBcd =>
    cases hi
    exact ⟨_, rfl, rfl⟩
  case stRegs x _ =>
    cases hi
    exact ⟨_, regBytes_length s x.isLt, rfl⟩
  all_goals cases hi

end Sys2Proof.Machine
end

section
/-! The obligations of 20_memory.md. -/

namespace Sys2Proof.Machine

/-- Settles O36: a fetch reads memory alone, and a read after the store gives the stored byte or the one of before. -/
theorem storedBytesAreFetched : Obligations.StoredBytesAreFetched := by
  unfold Obligations.StoredBytesAreFetched
  refine ⟨fun x s hI => ?_, fun x s hI => ?_, fun i s t hi h p => ?_⟩
  · have hr : s.dataInRange (x.toNat + 1) = true := (dataInRange_iff s _).2 (.inr hI)
    refine ⟨_, (Completes.stRegs x hr).exec_eq, fun p hp => ?_⟩
    rw [fetch_at _ hp]
    simp only [setMem_mem, State.ea, Nat.add_zero, read_writeBytes_regBytes]
  · have hr : s.dataInRange 3 = true := (dataInRange_iff s 3).2 (.inr hI)
    refine ⟨_, (Completes.ldBcd x hr).exec_eq, fun p hp => ?_⟩
    rw [fetch_at _ hp]
    simp only [setMem_mem, State.ea, Nat.add_zero, read_writeBytes_bcdDigits]
  · exact fetch_at_congr ((exec_next_iff.1 h).mem_eq hi) p

/-- Settles O46: an instruction that completes writes its `storesAt` range, byte by byte, and nothing else. -/
theorem memoryFrame : Obligations.MemoryFrame := by
  unfold Obligations.MemoryFrame
  intro i s t h
  have h := exec_next_iff.1 h
  split
  · next a width hi =>
    obtain ⟨bs, rfl, hmem⟩ := h.mem_writeBytes hi
    intro k hk
    rw [hmem, read_writeBytes_out _ _ _ _ hk]
  · next hi =>
    intro k
    rw [h.mem_eq hi]

end Sys2Proof.Machine
end

section
/-! SUPPORT. A word as its fields and back (30_encoding.md rules R61, R62), and what the encoder's rows look like as
fields (R64). -/

namespace Sys2Proof

/-- The family `t` at bits 15 to 12 (R61). -/
def placeT (t : Nibble) : Word := t.setWidth 16 <<< 12

/-- The word `tnnn`. -/
def wordNNN (t : Nibble) (nnn : Imm12) : Word := placeT t ||| nnn.setWidth 16

/-- The word `txkk`. -/
def wordXKK (t : Nibble) (x : Reg) (kk : Byte) : Word := placeT t ||| placeX x ||| kk.setWidth 16

/-- The word `txyn`. -/
def wordXYN (t : Nibble) (x y : Reg) (n : Nibble) : Word := placeT t ||| placeX x ||| placeY y ||| n.setWidth 16

/-! ### The fields of a word put together, bit by bit -/

section
variable (t : Nibble) (x y : Reg) (n : Nibble) (kk : Byte) (nnn : Imm12)

@[simp] theorem opFamily_wordNNN : opFamily (wordNNN t nnn) = t := by
  ext k hk
  interval_cases k <;> simp [opFamily, wordNNN, placeT]

@[simp] theorem opNNN_wordNNN : opNNN (wordNNN t nnn) = nnn := by
  ext k hk
  interval_cases k <;> simp [opNNN, wordNNN, placeT]

@[simp] theorem opFamily_wordXKK : opFamily (wordXKK t x kk) = t := by
  ext k hk
  interval_cases k <;> simp [opFamily, wordXKK, placeT, placeX]

@[simp] theorem opX_wordXKK : opX (wordXKK t x kk) = x := by
  ext k hk
  interval_cases k <;> simp [opX, wordXKK, placeT, placeX]

@[simp] theorem opKK_wordXKK : opKK (wordXKK t x kk) = kk := by
  ext k hk
  interval_cases k <;> simp [opKK, wordXKK, placeT, placeX]

@[simp] theorem opFamily_wordXYN : opFamily (wordXYN t x y n) = t := by
  ext k hk
  interval_cases k <;> simp [opFamily, wordXYN, placeT, placeX, placeY]

@[simp] theorem opX_wordXYN : opX (wordXYN t x y n) = x := by
  ext k hk
  interval_cases k <;> simp [opX, wordXYN, placeT, placeX, placeY]

@[simp] theorem opY_wordXYN : opY (wordXYN t x y n) = y := by
  ext k hk
  interval_cases k <;> simp [opY, wordXYN, placeT, placeX, placeY]

@[simp] theorem opN_wordXYN : opN (wordXYN t x y n) = n := by
  ext k hk
  interval_cases k <;> simp [opN, wordXYN, placeT, placeX, placeY]

/-- A row whose low byte is fixed (R64) places `x` alone. -/
theorem or_placeX : placeT t ||| kk.setWidth 16 ||| placeX x = wordXKK t x kk := by
  unfold wordXKK
  ac_rfl

/-- A row whose low nibble is fixed (R64) places `x` and `y`. -/
theorem or_placeX_or_placeY : placeT t ||| n.setWidth 16 ||| placeX x ||| placeY y = wordXYN t x y n := by
  unfold wordXYN
  ac_rfl

end

/-! ### A word put together again from its fields -/

section
variable {op : Word} {t n : Nibble}

theorem wordNNN_of_fields (ht : opFamily op = t) : wordNNN t (opNNN op) = op := by
  subst ht
  ext k hk
  interval_cases k <;> simp [wordNNN, opFamily, opNNN, placeT]

theorem wordXKK_of_fields (ht : opFamily op = t) : wordXKK t (opX op) (opKK op) = op := by
  subst ht
  ext k hk
  interval_cases k <;> simp [wordXKK, opFamily, opX, opKK, placeT, placeX]

theorem wordXYN_of_fields (ht : opFamily op = t) (hn : opN op = n) : wordXYN t (opX op) (opY op) n = op := by
  subst ht hn
  ext k hk
  interval_cases k <;> simp [wordXYN, opFamily, opX, opY, opN, placeT, placeX, placeY]

/-- Splitting a word into its bytes and reading them most significant first (R43, R60) gives the word. -/
theorem wordOfBytes_high_low (op : Word) : wordOfBytes (op.extractLsb' 8 8) (op.extractLsb' 0 8) = op := by
  ext k hk
  interval_cases k <;> simp [wordOfBytes]

end

/-! ### The rows of R64 as fields -/

/-- The word of an instruction, its fields read off the pattern of its row (R64). -/
def Instr.layout : Instr → Word
  | .cls => 0x00E0#16
  | .ret => 0x00EE#16
  | .jp nnn => wordNNN 0x1#4 nnn
  | .call nnn => wordNNN 0x2#4 nnn
  | .seImm x kk => wordXKK 0x3#4 x kk
  | .sneImm x kk => wordXKK 0x4#4 x kk
  | .seReg x y => wordXYN 0x5#4 x y 0x0#4
  | .ldImm x kk => wordXKK 0x6#4 x kk
  | .addImm x kk => wordXKK 0x7#4 x kk
  | .ldReg x y => wordXYN 0x8#4 x y 0x0#4
  | .orReg x y => wordXYN 0x8#4 x y 0x1#4
  | .andReg x y => wordXYN 0x8#4 x y 0x2#4
  | .xorReg x y => wordXYN 0x8#4 x y 0x3#4
  | .addReg x y => wordXYN 0x8#4 x y 0x4#4
  | .sub x y => wordXYN 0x8#4 x y 0x5#4
  | .shr x y => wordXYN 0x8#4 x y 0x6#4
  | .subn x y => wordXYN 0x8#4 x y 0x7#4
  | .shl x y => wordXYN 0x8#4 x y 0xE#4
  | .sneReg x y => wordXYN 0x9#4 x y 0x0#4
  | .ldI nnn => wordNNN 0xA#4 nnn
  | .jpV0 nnn => wordNNN 0xB#4 nnn
  | .rnd x kk => wordXKK 0xC#4 x kk
  | .drw x y n => wordXYN 0xD#4 x y n
  | .skp x => wordXKK 0xE#4 x 0x9E#8
  | .sknp x => wordXKK 0xE#4 x 0xA1#8
  | .ldFromDT x => wordXKK 0xF#4 x 0x07#8
  | .ldKey x => wordXKK 0xF#4 x 0x0A#8
  | .ldDT x => wordXKK 0xF#4 x 0x15#8
  | .ldST x => wordXKK 0xF#4 x 0x18#8
  | .addI x => wordXKK 0xF#4 x 0x1E#8
  | .ldFont x => wordXKK 0xF#4 x 0x29#8
  | .ldBcd x => wordXKK 0xF#4 x 0x33#8
  | .stRegs x => wordXKK 0xF#4 x 0x55#8
  | .ldRegs x => wordXKK 0xF#4 x 0x65#8

/-- The encoder gives the layout: where a row's low nibble or low byte is fixed, it stands in the row's match. -/
theorem encode_eq_layout (i : Instr) : encode i = i.layout := by
  cases i
  case seReg | ldReg | orReg | andReg | xorReg | addReg | sub | shr | subn | shl | sneReg =>
    rw [Instr.layout, ← or_placeX_or_placeY]
    rfl
  case skp | sknp | ldFromDT | ldKey | ldDT | ldST | addI | ldFont | ldBcd | stRegs | ldRegs =>
    rw [Instr.layout, ← or_placeX]
    rfl
  all_goals rfl

end Sys2Proof
end

section
/-! SUPPORT. The decoder and the opcode map, each said once: what a decoded word looks like, which words decode to nothing,
and which fields a row of the map fixes (30_encoding.md rules R64, R66, R72). -/

namespace Sys2Proof

/-- The sixteen families, in the order of how R72 decides them: by the family alone with the format `nnn`, `xkk` or
`xyn`, by the low nibble being 0, and by a table of their own. -/
theorem family_cases (op : Word) :
    (opFamily op = 0x1#4 ∨ opFamily op = 0x2#4 ∨ opFamily op = 0xA#4 ∨ opFamily op = 0xB#4) ∨
    (opFamily op = 0x3#4 ∨ opFamily op = 0x4#4 ∨ opFamily op = 0x6#4 ∨ opFamily op = 0x7#4 ∨ opFamily op = 0xC#4) ∨
    opFamily op = 0xD#4 ∨
    (opFamily op = 0x5#4 ∨ opFamily op = 0x9#4) ∨
    opFamily op = 0x0#4 ∨ opFamily op = 0x8#4 ∨ opFamily op = 0xE#4 ∨ opFamily op = 0xF#4 := by
  generalize opFamily op = t
  revert t
  decide

section
variable {op : Word} {i : Instr} {x y : Reg} {n : Nibble} {kk : Byte}

/-! ### The instruction a word decodes to -/

theorem layout_of_decodeFamily0 : ∀ i ∈ decodeFamily0 op, i.layout = op := by
  unfold decodeFamily0
  split_ifs <;> simp [Instr.layout, *]

theorem layout_of_decodeFamily8 : ∀ i ∈ decodeFamily8 x y n, i.layout = wordXYN 0x8#4 x y n := by
  unfold decodeFamily8
  split_ifs <;> simp [Instr.layout, *]

theorem layout_of_decodeFamilyE : ∀ i ∈ decodeFamilyE x kk, i.layout = wordXKK 0xE#4 x kk := by
  unfold decodeFamilyE
  split_ifs <;> simp [Instr.layout, *]

theorem layout_of_decodeFamilyF : ∀ i ∈ decodeFamilyF x kk, i.layout = wordXKK 0xF#4 x kk := by
  unfold decodeFamilyF
  split_ifs <;> simp [Instr.layout, *]

theorem layout_of_decode : ∀ i ∈ decode op, i.layout = op := by
  rcases family_cases op with (h | h | h | h) | (h | h | h | h | h) | h | (h | h) | h | h | h | h
  iterate 4 simp [decode, h, Instr.layout, wordNNN_of_fields h]
  iterate 5 simp [decode, h, Instr.layout, wordXKK_of_fields h]
  · simp [decode, h, Instr.layout, wordXYN_of_fields h]
  iterate 2 simpa [decode, h, Instr.layout] using wordXYN_of_fields h
  · simpa [decode, h] using layout_of_decodeFamily0
  · simpa [decode, h, wordXYN_of_fields h] using layout_of_decodeFamily8 (x := opX op) (y := opY op) (n := opN op)
  · simpa [decode, h, wordXKK_of_fields h] using layout_of_decodeFamilyE (x := opX op) (kk := opKK op)
  · simpa [decode, h, wordXKK_of_fields h] using layout_of_decodeFamilyF (x := opX op) (kk := opKK op)

theorem decode_layout (i : Instr) : decode i.layout = some i := by
  cases i
  case cls | ret => rfl
  all_goals simp [Instr.layout, decode, decodeFamily8, decodeFamilyE, decodeFamilyF]

/-- Decoding and encoding are inverse to each other: both round trips in one. -/
theorem decode_eq_some_iff : decode op = some i ↔ encode i = op := by
  rw [encode_eq_layout]
  constructor
  · exact layout_of_decode i
  · rintro rfl
    exact decode_layout i

@[simp] theorem decode_encode (i : Instr) : decode (encode i) = some i := decode_eq_some_iff.2 rfl

/-! ### The words that decode to nothing (R66) -/

theorem decodeFamily0_eq_none_iff : decodeFamily0 op = none ↔ op ≠ 0x00E0#16 ∧ op ≠ 0x00EE#16 := by
  unfold decodeFamily0
  split_ifs <;> simp [*]

theorem decodeFamily8_eq_none_iff :
    decodeFamily8 x y n = none ↔ 8 ≤ n.toNat ∧ n.toNat ≤ 0xD ∨ n.toNat = 0xF := by
  unfold decodeFamily8
  split_ifs
  iterate 9
    subst n
    simp
  · simp only [true_iff]
    bv_omega

theorem decodeFamilyE_eq_none_iff : decodeFamilyE x kk = none ↔ kk ≠ 0x9E#8 ∧ kk ≠ 0xA1#8 := by
  unfold decodeFamilyE
  split_ifs <;> simp [*]

theorem decodeFamilyF_eq_none_iff : decodeFamilyF x kk = none ↔
    kk ∉ ([0x07#8, 0x0A#8, 0x15#8, 0x18#8, 0x1E#8, 0x29#8, 0x33#8, 0x55#8, 0x65#8] : List Byte) := by
  unfold decodeFamilyF
  split_ifs <;> simp [*]

end

/-- Settles O5, family by family. -/
theorem unknownWordsAreThoseListed : Obligations.UnknownWordsAreThoseListed := by
  unfold Obligations.UnknownWordsAreThoseListed
  intro op
  rcases family_cases op with (h | h | h | h) | (h | h | h | h | h) | h | (h | h) | h | h | h | h
  iterate 12 simp [decode, h]
  · simp [decode, h, decodeFamily0_eq_none_iff]
  · simp [decode, h, decodeFamily8_eq_none_iff]
  · simp [decode, h, decodeFamilyE_eq_none_iff]
  · simp [decode, h, decodeFamilyF_eq_none_iff]

/-! ### The rows a word matches (R64) -/

section
variable {op : Word} {r q : Row}

/-- Two rows that accept one word agree on the bits both look at. -/
theorem want_and_mask_comm (hr : r.accepts op = true) (hq : q.accepts op = true) :
    r.want &&& q.mask = q.want &&& r.mask := by
  simp only [Row.accepts, beq_iff_eq] at hr hq
  rw [← hr, ← hq]
  ac_rfl

theorem eq_of_want_and_mask_comm :
    ∀ r ∈ opcodeMap, ∀ q ∈ opcodeMap, r.want &&& q.mask = q.want &&& r.mask → r = q := by
  decide

/-- A word has each field of an accepting row that the row's mask keeps whole. -/
theorem fields_of_accepts (h : r.accepts op = true) :
    (opFamily r.mask = 0xF#4 → opFamily op = opFamily r.want) ∧ (opN r.mask = 0xF#4 → opN op = opN r.want) ∧
      (opKK r.mask = 0xFF#8 → opKK op = opKK r.want) ∧ (r.mask = 0xFFFF#16 → op = r.want) := by
  simp only [Row.accepts, beq_iff_eq] at h
  have nibble_and (a : Nibble) : a &&& 0xF#4 = a := BitVec.and_allOnes
  have byte_and (a : Byte) : a &&& 0xFF#8 = a := BitVec.and_allOnes
  have word_and (a : Word) : a &&& 0xFFFF#16 = a := BitVec.and_allOnes
  rw [← h]
  unfold opFamily opN opKK
  simp +contextual [nibble_and, byte_and, word_and, BitVec.extractLsb'_and]

/-- The masks keep every field that decides whether a word of the row's family is known: the strictness of R65. -/
theorem mask_keeps_deciding_fields : ∀ r ∈ opcodeMap,
    opFamily r.mask = 0xF#4 ∧ (opFamily r.want = 0x0#4 → r.mask = 0xFFFF#16) ∧
      (opFamily r.want ∈ [0x5#4, 0x8#4, 0x9#4] → opN r.mask = 0xF#4) ∧
      (opFamily r.want ∈ [0xE#4, 0xF#4] → opKK r.mask = 0xFF#8) := by
  decide

/-- A word is as known as the match of a row that accepts it: the mask drops nothing the table of R66 looks at. -/
theorem decode_eq_none_iff_of_accepts (hr : r ∈ opcodeMap) (h : r.accepts op = true) :
    decode op = none ↔ decode r.want = none := by
  obtain ⟨hfamily, hn, hkk, hword⟩ := fields_of_accepts h
  obtain ⟨keepsFamily, keepsWord, keepsN, keepsKK⟩ := mask_keeps_deciding_fields r hr
  replace hfamily := hfamily keepsFamily
  rw [unknownWordsAreThoseListed op, unknownWordsAreThoseListed r.want]
  rcases family_cases r.want with (h | h | h | h) | (h | h | h | h | h) | h | (h | h) | h | h | h | h
  iterate 10 simp [hfamily, h]
  iterate 2 simp [hfamily, h, hn (keepsN (by simp [h]))]
  · rw [hword (keepsWord h)]
  · simp [hfamily, h, hn (keepsN (by simp [h]))]
  iterate 2 simp [hfamily, h, hkk (keepsKK (by simp [h]))]

theorem decode_want_ne_none : ∀ r ∈ opcodeMap, decode r.want ≠ none := by
  decide

theorem decode_isSome_of_accepts (hr : r ∈ opcodeMap) (h : r.accepts op = true) : (decode op).isSome = true := by
  rw [Option.isSome_iff_ne_none, Ne, decode_eq_none_iff_of_accepts hr h]
  exact decode_want_ne_none r hr

end

open Laws.RowMatch in
/-- Every instruction's word matches the row of its pattern. -/
theorem rowMatch (i : Instr) : Laws.RowMatch.Statement i := by
  cases i
  exacts [cls, ret, jp _, call _, seImm _ _, sneImm _ _, seReg _ _, ldImm _ _, addImm _ _, ldReg _ _, orReg _ _,
    andReg _ _, xorReg _ _, addReg _ _, sub _ _, shr _ _, subn _ _, shl _ _, sneReg _ _, ldI _, jpV0 _, rnd _ _,
    drw _ _ _, skp _, sknp _, ldFromDT _, ldKey _, ldDT _, ldST _, addI _, ldFont _, ldBcd _, stRegs _, ldRegs _]

end Sys2Proof
end

section
/-! The obligations of 30_encoding.md. -/

namespace Sys2Proof

/-- Settles O1: the round trip on words, and the two bytes of a word give the word back. -/
theorem decodeOfEncodeIsTheInstruction : Obligations.DecodeOfEncodeIsTheInstruction := by
  unfold Obligations.DecodeOfEncodeIsTheInstruction
  intro i rest
  refine ⟨decode_encode i, ?_⟩
  simp [encodeBytes, decodeBytes, wordOfBytes_high_low]

/-- Settles O2, the other half of `decode_eq_some_iff`. -/
theorem encodeOfDecodeIsTheWord : Obligations.EncodeOfDecodeIsTheWord := by
  unfold Obligations.EncodeOfDecodeIsTheWord
  exact fun op i h => decode_eq_some_iff.1 h

/-- Settles O4: rows that accept one word agree where their masks meet, and no two different rows of the map do. -/
theorem opcodeRowsAreExclusive : Obligations.OpcodeRowsAreExclusive := by
  unfold Obligations.OpcodeRowsAreExclusive
  exact fun op r q hr hq har haq => eq_of_want_and_mask_comm r hr q hq (want_and_mask_comm har haq)

/-- Settles O3: a decoded word is its instruction's encoding, which matches the row of its pattern and, by exclusion, no
other; and a word that matches a row is as known as the row's match. -/
theorem decoderIsTheOpcodeMap : Obligations.DecoderIsTheOpcodeMap := by
  unfold Obligations.DecoderIsTheOpcodeMap
  intro op
  have row_of_decode {i : Instr} (h : decode op = some i) :
      ∃ r ∈ opcodeMap, r.pattern = i.pattern ∧ r.accepts op = true :=
    decode_eq_some_iff.1 h ▸ rowMatch i
  refine ⟨Bool.eq_iff_iff.2 ⟨fun h => ?_, fun h => ?_⟩, fun i h q hq haq => ?_⟩
  · obtain ⟨i, hi⟩ := Option.isSome_iff_exists.1 h
    obtain ⟨r, hr, -, har⟩ := row_of_decode hi
    exact List.any_eq_true.2 ⟨r, hr, har⟩
  · obtain ⟨r, hr, har⟩ := List.any_eq_true.1 h
    exact decode_isSome_of_accepts hr har
  · obtain ⟨r, hr, hpattern, har⟩ := row_of_decode h
    rw [opcodeRowsAreExclusive op q r hq hr haq har, hpattern]

/-- Settles O6: each word is the encoding of the instruction named. -/
theorem sampleWordsDecode : Obligations.SampleWordsDecode := by
  unfold Obligations.SampleWordsDecode
  and_intros <;> exact decode_eq_some_iff.2 rfl

end Sys2Proof
end

section
/-! SUPPORT. What one step can do, said once: the conditions an instruction raises, next to how it completes, and
the four ways a step ends (40_step_fetch_decode.md rules R80 to R87). -/

namespace Sys2Proof.Machine

variable {s : State} {i : Instr}

/-! ### The conditions an instruction raises (R152, R154, R156) -/

/-- `Raises s i f`: run in `s`, the instruction `i` raises the condition `f`. -/
inductive Raises (s : State) : Instr → Fault → Prop
  | underflow (h : s.sp.val = 0) : Raises s .ret (.stackUnderflow s)
  | overflow (nnn : Imm12) (h : s.sp.val = 16) : Raises s (.call nnn) (.stackOverflow s)
  | data {i : Instr} {cnt : Nat} (hi : dataCount i = some cnt) (h : s.dataInRange cnt = false) :
      Raises s i (.outOfBounds (.data cnt) s.I s)
  | key {i : Instr} {x : Reg} (hi : i = .skp x ∨ i = .sknp x) (h : 16 ≤ (s.reg x).toNat) :
      Raises s i (.outOfBounds .key ((s.reg x).zeroExtend 16) s)

/-- A condition leaves the state in which the instruction ran (D5). -/
theorem Raises.left_eq {f : Fault} (h : Raises s i f) : f.left = s := by
  cases h <;> rfl

/-- A range-checked access completes, or it raises its condition. -/
theorem completes_or_raises_of_accessing {cnt : Nat} {u : State} (hc : dataCount i = some cnt)
    (he : exec i s = s.accessing cnt u) : (∃ t, exec i s = .next t) ∨ ∃ f, Raises s i f ∧ exec i s = .fault f := by
  obtain ⟨-, e⟩ | ⟨hr, e⟩ := accessing_cases s u cnt
  · exact .inl ⟨u, he.trans e⟩
  · exact .inr ⟨_, .data hc hr, he.trans e⟩

/-- A skip on a key completes, or it raises its condition. -/
theorem completes_or_raises_of_skipOnKey {x : Reg} {p : Bool} (hi : i = .skp x ∨ i = .sknp x)
    (he : exec i s = s.skipOnKey x p) : (∃ t, exec i s = .next t) ∨ ∃ f, Raises s i f ∧ exec i s = .fault f := by
  obtain ⟨k, -, e⟩ | ⟨hk, e⟩ := skipOnKey_cases s x p
  · exact .inl ⟨_, he.trans e⟩
  · exact .inr ⟨_, .key hi hk, he.trans e⟩

/-- Every instruction completes or raises one of its conditions. -/
theorem completes_or_raises (i : Instr) (s : State) :
    (∃ t, exec i s = .next t) ∨ ∃ f, Raises s i f ∧ exec i s = .fault f := by
  cases i
  case ret =>
    obtain ⟨h, e⟩ | ⟨h, e⟩ := execRet_cases s
    · exact .inl ⟨_, e⟩
    · exact .inr ⟨_, .underflow h, e⟩
  case call nnn =>
    obtain ⟨h, e⟩ | ⟨h, e⟩ := execCall_cases nnn s
    · exact .inl ⟨_, e⟩
    · exact .inr ⟨_, .overflow nnn h, e⟩
  case drw | ldBcd | stRegs | ldRegs => exact completes_or_raises_of_accessing rfl rfl
  case skp => exact completes_or_raises_of_skipOnKey (.inl rfl) rfl
  case sknp => exact completes_or_raises_of_skipOnKey (.inr rfl) rfl
  case ldKey x =>
    obtain ⟨-, e⟩ | ⟨k, -, -, e⟩ := execLdKey_cases x s
    · exact .inl ⟨_, e⟩
    · exact .inl ⟨_, e⟩
  all_goals exact .inl ⟨_, rfl⟩

/-! ### The four ways a step ends -/

theorem step_of_fetch_none (hf : fetch s = none) : step s = .fault (.outOfBounds .fetch s.pc s.latch) := by
  simp only [step, hf]; rfl

theorem step_of_decode_none {op : Word} (hf : fetch s = some op) (hd : decode op = none) :
    step s = .fault (.unknownOpcode op s.advance.latch) := by
  simp only [step, hf, hd]; rfl

/-- A step fails to fetch, meets an unknown word, or runs an instruction that completes or raises a condition. -/
theorem step_cases (s : State) :
    (fetch s = none ∧ step s = .fault (.outOfBounds .fetch s.pc s.latch)) ∨
    (∃ op, fetch s = some op ∧ decode op = none ∧ step s = .fault (.unknownOpcode op s.advance.latch)) ∨
    (∃ op i t, fetch s = some op ∧ decode op = some i ∧ Completes s.advance i t ∧ step s = .next t.latch) ∨
    (∃ op i f, fetch s = some op ∧ decode op = some i ∧ Raises s.advance i f ∧
      step s = .fault (f.mapLeft State.latch)) := by
  cases hf : fetch s with
  | none => exact .inl ⟨rfl, step_of_fetch_none hf⟩
  | some op =>
    cases hd : decode op with
    | none => exact .inr (.inl ⟨op, rfl, hd, step_of_decode_none hf hd⟩)
    | some i =>
      have run := step_of_decode hf hd
      obtain ⟨t, e⟩ | ⟨f, hraise, e⟩ := completes_or_raises i s.advance
      · exact .inr (.inr (.inl ⟨op, i, t, rfl, hd, exec_next_iff.1 e, by rw [run, e]; rfl⟩))
      · exact .inr (.inr (.inr ⟨op, i, f, rfl, hd, hraise, by rw [run, e]; rfl⟩))

/-! ### The fetched word and the held program counter -/

/-- The big-endian word of two bytes, as a number (R43). -/
theorem wordOfBytes_eq_ofNat (hi lo : Byte) : wordOfBytes hi lo = BitVec.ofNat 16 (hi.toNat * 256 + lo.toNat) := by
  have hhi := hi.isLt
  have highByte : hi.toNat <<< 8 % 2 ^ 16 = hi.toNat <<< 8 := Nat.mod_eq_of_lt (by rw [Nat.shiftLeft_eq]; omega)
  apply BitVec.eq_of_toNat_eq
  calc (wordOfBytes hi lo).toNat
    _ = hi.toNat <<< 8 ||| lo.toNat := by
      rw [wordOfBytes, BitVec.toNat_or, BitVec.toNat_shiftLeft, BitVec.toNat_setWidth_of_le (by omega),
        BitVec.toNat_setWidth_of_le (by omega), highByte]
    _ = hi.toNat * 256 + lo.toNat := by rw [← Nat.shiftLeft_add_eq_or_of_lt lo.isLt, Nat.shiftLeft_eq]
    _ = (BitVec.ofNat 16 (hi.toNat * 256 + lo.toNat)).toNat := (Nat.mod_eq_of_lt (by omega)).symm

/-- A hold undoes the advance (R139). -/
theorem advance_hold (s : State) : s.advance.hold = s :=
  congrArg s.setPc (BitVec.add_sub_cancel s.pc 2#16)

end Sys2Proof.Machine
end

section
/-! The obligations of 40_step_fetch_decode.md. -/

namespace Sys2Proof.Machine

/-- Settles O10: in each way a step ends the latch comes last, over a state whose keypad nothing has written. -/
theorem everyStepLatchesTheKeypad : Obligations.EveryStepLatchesTheKeypad := by
  unfold Obligations.EveryStepLatchesTheKeypad
  intro s
  obtain ⟨-, e⟩ | ⟨op, -, -, e⟩ | ⟨op, i, u, -, -, hu, e⟩ | ⟨op, i, g, -, -, hg, e⟩ := step_cases s
  · simp [e, Fault.left]
  · simp [e, Fault.left]
  · simp [e, hu.host_fields_eq.1]
  · simp [e, hg.left_eq]

/-- Settles O7: the two bytes are the fetched word, and the rest is the step on a decoded word. -/
theorem stepRunsTheDecodedInstruction : Obligations.StepRunsTheDecodedInstruction := by
  unfold Obligations.StepRunsTheDecodedInstruction
  intro s i hpc hd
  rw [← wordOfBytes_eq_ofNat] at hd
  rw [step_of_decode (fetch_some.2 ⟨hpc, rfl⟩) hd]
  rfl

/-- Settles O8: a failed fetch ends the step before the advance. -/
theorem fetchPastMemoryEndIsOutOfBounds : Obligations.FetchPastMemoryEndIsOutOfBounds := by
  unfold Obligations.FetchPastMemoryEndIsOutOfBounds
  intro s
  have fails : s.pc.toNat + 1 > 0xFFF ↔ fetch s = none := Nat.succ_le_succ_iff.trans fetch_none.symm
  exact ⟨fails, fun h => step_of_fetch_none (fails.1 h)⟩

/-- Settles O9; the skipping host's next state is the one the condition carries. -/
theorem unknownWordIsReportedAfterTheAdvance : Obligations.UnknownWordIsReportedAfterTheAdvance := by
  unfold Obligations.UnknownWordIsReportedAfterTheAdvance
  intro s op hf hd
  have run := step_of_decode_none hf hd
  exact ⟨run, congrArg skipUnknown run⟩

/-- Settles O11: none of the four ways a step ends is a refusal. -/
theorem noStepIsRefused : Obligations.NoStepIsRefused := by
  unfold Obligations.NoStepIsRefused
  intro s r
  obtain ⟨-, e⟩ | ⟨op, -, -, e⟩ | ⟨op, i, u, -, -, -, e⟩ | ⟨op, i, g, -, -, -, e⟩ := step_cases s <;> simp [e]

/-- Settles O42: with no new key `Fx0A` holds, and the hold undoes the step's advance. -/
theorem waitingStepStaysAtTheInstruction : Obligations.WaitingStepStaysAtTheInstruction := by
  unfold Obligations.WaitingStepStaysAtTheInstruction
  intro s op x hf hd hkeys
  have noKey : s.advance.newKey = none :=
    newKey_none.2 fun k => Bool.eq_false_iff.2 fun hk => hkeys k (newlyDown_iff.1 hk)
  rw [step_of_decode hf hd, (Completes.ldKey_hold x noKey).exec_eq, advance_hold]
  rfl

/-- Settles O54: a load is one block of writes at 0x200. -/
theorem loadCopiesTheBytes : Obligations.LoadCopiesTheBytes := by
  unfold Obligations.LoadCopiesTheBytes
  intro bytes s hlen
  refine ⟨s.setMem (s.mem.writeBytes 0x200 bytes), if_neg (Nat.not_lt.2 hlen), rfl, fun i b hb => ?_, fun a ha => ?_⟩
  · obtain ⟨hi, rfl⟩ := List.getElem?_eq_some_iff.1 hb
    exact read_writeBytes_in _ _ _ i hi
  · exact read_writeBytes_out _ _ a _ ha

/-- Settles O55: the length is checked before any byte is copied. -/
theorem oversizedLoadChangesNothing : Obligations.OversizedLoadChangesNothing := by
  unfold Obligations.OversizedLoadChangesNothing
  intro bytes s hlen
  exact ⟨if_pos hlen, rfl⟩

end Sys2Proof.Machine
end

section
/-! SUPPORT. The stack under a call and a return, and the parts of the machine's invariant under an instruction that
completes (41_control_flow.md; 10_state.md rules R13, R20). -/

namespace Sys2Proof.Machine

variable {s t : State} {i : Instr}

/-! ### The stack, the skip and the computed jump, as the statements read them -/

/-- A push writes the one entry at `sp` (R92). -/
theorem push_stack_getElem (w : Word) (h : s.sp.val < 16) (k : Fin 16) :
    (s.push w h).stack[k] = if k.val = s.sp.val then w else s.stack[k] := by
  simp [Vector.getElem_set, eq_comm]

/-- A skip writes nothing but `pc`, on whatever condition its test decides. -/
theorem skipIf_eq {c : Bool} {p : Prop} [Decidable p] (hc : c = true ↔ p) :
    s.skipIf c = { s with pc := if p then s.pc + 2#16 else s.pc } := by
  by_cases hp : p
  · rw [hc.2 hp, if_pos hp]; rfl
  · rw [Bool.eq_false_iff.2 fun h => hp (hc.1 h), if_neg hp]; rfl

/-- The target of `Bnnn` is the sum of two numbers: it never wraps (R97). -/
theorem jpV0_target_toNat (b : Byte) (nnn : Imm12) :
    (b.zeroExtend 16 + zext16 nnn).toNat = b.toNat + nnn.toNat := by
  have hb := b.isLt
  have hn := nnn.isLt
  rw [BitVec.toNat_add, zext16_toNat, BitVec.toNat_setWidth_of_le (by omega)]
  omega

/-! ### What a completing instruction keeps of the invariant -/

/-- The bytes of a non-empty access in range lie inside memory (R46). -/
theorem ea_add_le_memSize {cnt : Nat} (h : s.dataInRange cnt = true) (hc : 0 < cnt) :
    s.ea 0 + cnt ≤ Config.memSize := by
  have hr := (dataInRange_iff s cnt).1 h
  simp only [State.ea, Config.memSize]
  omega

/-- `Fx33` and `Fx55` write inside memory, and nothing else writes it (R20, R48). -/
theorem Completes.mem_wf (h : Completes s i t) (hm : s.mem.wf) : t.mem.wf := by
  cases h
  case ldBcd x hr => exact wf_writeBytes hm (ea_add_le_memSize hr (Nat.succ_pos 2))
  case stRegs x hr =>
    refine wf_writeBytes hm ?_
    rw [regBytes_length s x.isLt]
    exact ea_add_le_memSize hr (Nat.succ_pos _)
  all_goals simpa using hm

/-- A call pushes `pc`, and nothing else writes the stack (R90, R92). -/
theorem Completes.stack_le {bound : Nat} (h : Completes s i t) (hstack : ∀ k : Fin 16, s.stack[k].toNat ≤ bound)
    (hpc : s.pc.toNat ≤ bound) : ∀ k : Fin 16, t.stack[k].toNat ≤ bound := by
  intro k
  cases h
  case call nnn hsp =>
    rw [setPc_stack, push_stack_getElem]
    split
    · exact hpc
    · exact hstack k
  all_goals simpa using hstack k

theorem skipIf_pc_toNat_le (s : State) (c : Bool) : (s.skipIf c).pc.toNat ≤ s.pc.toNat + 2 := by
  cases c
  · exact Nat.le_add_right _ _
  · exact Nat.mod_le _ _

/-- Every row of the table of R13 stays below 0x10FF when the instruction stood inside memory, `s.pc` being the address
after it. -/
theorem Completes.pc_le (h : Completes s i t) (hstack : ∀ k : Fin 16, s.stack[k].toNat ≤ 0x1000)
    (hlow : 2 ≤ s.pc.toNat) (hhigh : s.pc.toNat ≤ 0x1000) : t.pc.toNat ≤ 0x10FE := by
  cases h
  case ret hsp =>
    have htop := hstack ⟨s.sp.val - 1, by omega⟩
    exact htop.trans (by omega)
  case jp nnn | call nnn _ =>
    have hn := nnn.isLt
    rw [setPc_pc, zext16_toNat]
    omega
  case jpV0 nnn =>
    have hb := (s.reg 0#4).isLt
    have hn := nnn.isLt
    rw [setPc_pc, jpV0_target_toNat]
    omega
  case seImm | sneImm | seReg | sneReg | skp | sknp => exact (skipIf_pc_toNat_le s _).trans (by omega)
  case ldKey_hold x _ =>
    rw [hold_pc, BitVec.toNat_sub_of_le hlow]
    omega
  all_goals
    simp
    omega

/-- After the advance `pc` is the address after an instruction that was fetched, so that one lies inside memory (R81). -/
theorem advance_pc_bounds {op : Word} (hf : fetch s = some op) :
    2 ≤ s.advance.pc.toNat ∧ s.advance.pc.toNat ≤ 0x1000 := by
  have hpc := (fetch_some.1 hf).1
  rw [advance_pc, BitVec.toNat_add, BitVec.toNat_ofNat]
  omega

/-- The invariant holds where the fetched instruction starts, and where a condition of the step leaves the core. -/
theorem advance_inv {op : Word} (hf : fetch s = some op) (h : s.Inv) : s.advance.Inv := by
  obtain ⟨hmem, hstack, -⟩ := h
  exact ⟨hmem, hstack, (advance_pc_bounds hf).2.trans (by omega)⟩

/-- The invariant holds where the fetched instruction ends. -/
theorem Completes.inv {op : Word} (h : Completes s.advance i t) (hf : fetch s = some op) (hs : s.Inv) : t.Inv := by
  obtain ⟨hmem, hstack, -⟩ := hs
  obtain ⟨hlow, hhigh⟩ := advance_pc_bounds hf
  exact ⟨h.mem_wf hmem, h.stack_le hstack hhigh, h.pc_le hstack hlow hhigh⟩

/-! ### A call, what runs inside it, and its return (R98) -/

/-- Sequences compose: the second runs from where the first ended. -/
theorem execSeq_append {is js : List Instr} (h : execSeq is s = .next t) : execSeq (is ++ js) s = execSeq js t := by
  induction is generalizing s with
  | nil =>
    cases h
    rfl
  | cons i is ih =>
    simp only [List.cons_append, execSeq] at h ⊢
    split at h
    · exact ih h
    · next ho => exact absurd h (ho t)

/-- The state in which the called code starts: the call itself ran after its advance. -/
def State.called (s : State) (nnn : Imm12) (h : s.sp.val < 16) : State :=
  (s.advance.push s.advance.pc h).setPc (zext16 nnn)

/-- A body that ends with the stack pointer it was entered with, and the return address still in its entry, returns to
the address after the call. -/
theorem execSeq_call_body_ret {body : List Instr} {nnn : Imm12} {p : Word} {stack : Vector Word 16}
    (hsp : s.sp.val < 16) (hbody : execSeq body (s.called nnn hsp) = .next { s.called nnn hsp with pc := p, stack })
    (htop : stack[s.sp.val] = s.pc + 2#16) :
    execSeq (.call nnn :: (body ++ [.ret])) s = .next { s with pc := s.pc + 2#16, stack } := by
  have hcall : exec (.call nnn) s.advance = .next (s.called nnn hsp) := (Completes.call (s := s.advance) nnn hsp).exec_eq
  have hret := (Completes.ret (s := { s.called nnn hsp with pc := p, stack }.advance) (Nat.succ_pos _)).exec_eq
  calc execSeq (.call nnn :: (body ++ [.ret])) s
    _ = execSeq (body ++ [.ret]) (s.called nnn hsp) := by rw [execSeq, hcall]
    _ = execSeq [.ret] { s.called nnn hsp with pc := p, stack } := execSeq_append hbody
    _ = .next { s with pc := s.pc + 2#16, stack } := by
      rw [execSeq, hret, ← htop]
      rfl

/-- Nested calls and their returns. With no call at all nothing runs, so only then does `pc` stay. -/
theorem execSeq_calls_rets (targets : List Imm12) (s : State) (hroom : s.sp.val + targets.length ≤ 16) :
    ∃ stack : Vector Word 16,
      execSeq (targets.map Instr.call ++ List.replicate targets.length Instr.ret) s =
        .next { s with pc := if targets = [] then s.pc else s.pc + 2#16, stack } ∧
      ∀ k : Fin 16, k.val < s.sp.val ∨ s.sp.val + targets.length ≤ k.val → stack[k] = s.stack[k] := by
  induction targets generalizing s with
  | nil => exact ⟨s.stack, rfl, fun _ _ => rfl⟩
  | cons nnn targets ih =>
    rw [List.length_cons] at hroom ⊢
    have hsp : s.sp.val < 16 := by omega
    have entered (k : Fin 16) : (s.called nnn hsp).stack[k] = if k.val = s.sp.val then s.pc + 2#16 else s.stack[k] :=
      push_stack_getElem (s := s.advance) _ hsp k
    have sp_entered : (s.called nnn hsp).sp.val = s.sp.val + 1 := rfl
    obtain ⟨stack, hbody, kept⟩ := ih (s.called nnn hsp) (by omega)
    rw [sp_entered] at kept
    have htop : stack[s.sp.val] = s.pc + 2#16 := by
      have := (kept ⟨s.sp.val, hsp⟩ (.inl (Nat.lt_succ_self _))).trans (entered _)
      rwa [if_pos rfl] at this
    refine ⟨stack, ?_, fun k hk => ?_⟩
    · rw [List.replicate_succ', List.map_cons, List.cons_append, ← List.append_assoc, if_neg (List.cons_ne_nil _ _)]
      exact execSeq_call_body_ret hsp hbody htop
    · rw [kept k (by omega), entered, if_neg (by omega)]

end Sys2Proof.Machine
end

section
/-! The obligations of 41_control_flow.md. -/

namespace Sys2Proof.Machine

/-- Settles O51, along the four ways a step ends: a latch and a condition keep the state's invariant, and a completing
instruction keeps its three parts. -/
theorem stepKeepsTheInvariant : Obligations.StepKeepsTheInvariant := by
  unfold Obligations.StepKeepsTheInvariant
  intro s hs
  obtain ⟨-, e⟩ | ⟨op, hf, -, e⟩ | ⟨op, i, u, hf, -, hu, e⟩ | ⟨op, i, g, hf, -, hg, e⟩ := step_cases s <;> rw [e]
  · exact ⟨nofun, by rintro _ ⟨⟩; exact hs⟩
  · exact ⟨nofun, by rintro _ ⟨⟩; exact advance_inv hf hs⟩
  · exact ⟨by rintro _ ⟨⟩; exact hu.inv hf hs, nofun⟩
  · refine ⟨nofun, ?_⟩
    rintro _ ⟨⟩
    rw [mapLeft_left, hg.left_eq]
    exact advance_inv hf hs

/-- Settles O18: the nested run, with at least one call. -/
theorem callsAndReturnsPairUp : Obligations.CallsAndReturnsPairUp := by
  unfold Obligations.CallsAndReturnsPairUp
  intro targets s hne hroom
  obtain ⟨stack, hrun, kept⟩ := execSeq_calls_rets targets s hroom
  rw [if_neg hne] at hrun
  exact ⟨_, hrun, rfl, kept⟩

/-- Settles O15, by the two outcomes of a return. -/
theorem returnPopsTheStack : Obligations.ReturnPopsTheStack := by
  unfold Obligations.ReturnPopsTheStack
  intro s
  obtain ⟨hpos, e⟩ | ⟨hzero, e⟩ := execRet_cases s
  · exact ⟨fun _ => ⟨_, e, rfl, rfl, Nat.sub_one_lt_of_le hpos s.sp.is_le, rfl⟩, fun hzero => by omega⟩
  · exact ⟨fun hpos => by omega, fun _ => e⟩

/-- Settles O16; zero-extension keeps `nnn` as a number. -/
theorem jumpLoadsThePc : Obligations.JumpLoadsThePc := by
  unfold Obligations.JumpLoadsThePc
  intro nnn s
  exact ⟨_, (Completes.jp nnn).exec_eq, rfl, zext16_toNat nnn⟩

/-- Settles O17, by the two outcomes of a call and the one entry its push writes. -/
theorem callPushesTheReturnAddress : Obligations.CallPushesTheReturnAddress := by
  unfold Obligations.CallPushesTheReturnAddress
  intro nnn s
  obtain ⟨hroom, e⟩ | ⟨hfull, e⟩ := execCall_cases nnn s
  · exact ⟨fun _ => ⟨_, e, rfl, rfl, zext16_toNat nnn, push_stack_getElem s.pc hroom⟩, fun hfull => by omega⟩
  · exact ⟨fun hroom => by omega, fun _ => e⟩

/-- Settles O19: each comparison is the skip's test. -/
theorem registerSkipsCompareAndSkip : Obligations.RegisterSkipsCompareAndSkip := by
  unfold Obligations.RegisterSkipsCompareAndSkip
  intro x y kk s
  refine ⟨?_, ?_, ?_, ?_⟩
  · rw [(Completes.seImm x kk).exec_eq, skipIf_eq beq_iff_eq]
  · rw [(Completes.sneImm x kk).exec_eq, skipIf_eq bne_iff_ne]
  · rw [(Completes.seReg x y).exec_eq, skipIf_eq beq_iff_eq]
  · rw [(Completes.sneReg x y).exec_eq, skipIf_eq bne_iff_ne]

/-- Settles O20: 255 + 0xFFF fits in 16 bits, so the sum is exact. -/
theorem jumpPlusV0AddsV0 : Obligations.JumpPlusV0AddsV0 := by
  unfold Obligations.JumpPlusV0AddsV0
  intro nnn s
  exact ⟨_, (Completes.jpV0 nnn).exec_eq, rfl, jpV0_target_toNat _ nnn⟩

end Sys2Proof.Machine
end

section
/-! SUPPORT. What the loads and the ALU leave: the written register and the flag, as the statements read them
(42_register_alu.md rules R100 to R113). -/

namespace Sys2Proof.Machine

variable {s : State}

/-! ### One register written -/

theorem setReg_reg_self (x : Reg) (b : Byte) : (s.setReg x b).reg x = b := by simp

theorem setReg_reg_of_ne {x r : Reg} (b : Byte) (h : r ≠ x) : (s.setReg x b).reg r = s.reg r := by simp [h]

/-! ### Results as numbers -/

/-- The difference modulo 256 (R107, R109); 256 is added first, so that no subtraction of numbers is cut off at 0. -/
theorem sub_toNat_add_mod (a b : Byte) : (a - b).toNat = (a.toNat + 256 - b.toNat) % 256 := by
  have hb := b.isLt
  rw [BitVec.toNat_sub]
  congr 1
  omega

theorem shiftRight_one_toNat (a : Byte) : (a >>> 1).toNat = a.toNat / 2 := by
  rw [BitVec.toNat_ushiftRight, Nat.shiftRight_eq_div_pow, Nat.pow_one]

theorem shiftLeft_one_toNat (a : Byte) : (a <<< 1).toNat = a.toNat * 2 % 256 := by
  rw [BitVec.toNat_shiftLeft, Nat.shiftLeft_eq, Nat.pow_one]

/-! ### Flags as numbers (R106 to R110) -/

theorem flagByte_toNat (f : Bool) : (flagByte f).toNat = f.toNat := by cases f <;> rfl

theorem carry_flag_toNat (a b : Byte) :
    (flagByte (carry a b)).toNat = if a.toNat + b.toNat > 255 then 1 else 0 := by
  rw [flagByte_toNat, carry, Bool.toNat, Bool.cond_decide]

theorem notBorrow_flag_toNat (a b : Byte) :
    (flagByte (notBorrow a b)).toNat = if a.toNat ≥ b.toNat then 1 else 0 := by
  rw [flagByte_toNat, notBorrow, Bool.toNat, Bool.cond_decide]

/-- Bit 0 is the parity. -/
theorem shiftedOutRight_flag_toNat (a : Byte) : (flagByte (shiftedOutRight a)).toNat = a.toNat % 2 := by
  rw [flagByte_toNat, shiftedOutRight, BitVec.getLsbD, Nat.toNat_testBit, Nat.pow_zero, Nat.div_one]

/-- Bit 7 is the whole quotient by 128, as a byte is below 256. -/
theorem shiftedOutLeft_flag_toNat (a : Byte) : (flagByte (shiftedOutLeft a)).toNat = a.toNat / 128 := by
  have ha := a.isLt
  rw [flagByte_toNat, shiftedOutLeft, BitVec.getLsbD, Nat.toNat_testBit]
  omega

/-! ### The result, then the flag (R111) -/

/-- A result and its flag as numbers: `V[x]` has the result unless the flag, written last, replaces it; `VF` has the
flag; no other register is written. -/
theorem setResultFlag_toNat (x : Reg) {b : Byte} {f : Bool} {result flag : Nat} (hresult : b.toNat = result)
    (hflag : (flagByte f).toNat = flag) :
    (x ≠ 15#4 → ((s.setResultFlag x b f).reg x).toNat = result) ∧
    ((s.setResultFlag x b f).reg 15#4).toNat = flag ∧
    ∀ r : Reg, r ≠ x → r ≠ 15#4 → (s.setResultFlag x b f).reg r = s.reg r := by
  refine ⟨fun hx => ?_, ?_, fun r hrx hrF => ?_⟩
  · rw [setResultFlag_reg, if_neg hx, if_pos rfl, hresult]
  · rw [setResultFlag_reg, if_pos rfl, hflag]
  · rw [setResultFlag_reg, if_neg hrF, if_neg hrx]

/-! ### The random byte (R113) -/

theorem supplyRnd_rndByte (b : Byte) : (s.supplyRnd b).rndByte = b := rfl

end Sys2Proof.Machine
end

section
/-! The obligations of 42_register_alu.md. -/

namespace Sys2Proof.Machine

/-- Settles O21: the word is the encoder's, and a register reads as it was last written. -/
theorem loadImmediateWritesTheByte : Obligations.LoadImmediateWritesTheByte := by
  unfold Obligations.LoadImmediateWritesTheByte
  intro x kk s
  exact ⟨decode_encode (.ldImm x kk), _, (Completes.ldImm x kk).exec_eq, rfl, setReg_reg s x kk⟩

/-- Settles O22: the byte sum is the sum modulo 256, and only `V[x]` is written. -/
theorem addImmediateWrapsWithoutFlag : Obligations.AddImmediateWrapsWithoutFlag := by
  unfold Obligations.AddImmediateWrapsWithoutFlag
  intro x kk s
  refine ⟨decode_encode (.addImm x kk), _, (Completes.addImm x kk).exec_eq, rfl, ?_, fun r => setReg_reg_of_ne _⟩
  rw [setReg_reg_self, BitVec.toNat_add]

/-- Settles O23: each form writes one register, with the bitwise operation of its operands. -/
theorem assignAndLogicWriteNoFlag : Obligations.AssignAndLogicWriteNoFlag := by
  unfold Obligations.AssignAndLogicWriteNoFlag
  intro x y s
  refine ⟨⟨_, (Completes.ldReg x y).exec_eq, rfl, setReg_reg s x _⟩,
    ⟨_, (Completes.orReg x y).exec_eq, rfl, fun r => setReg_reg_of_ne _, fun k => ?_⟩,
    ⟨_, (Completes.andReg x y).exec_eq, rfl, fun r => setReg_reg_of_ne _, fun k => ?_⟩,
    ⟨_, (Completes.xorReg x y).exec_eq, rfl, fun r => setReg_reg_of_ne _, fun k => ?_⟩⟩
  · rw [setReg_reg_self, BitVec.getLsbD_or]
  · rw [setReg_reg_self, BitVec.getLsbD_and]
  · rw [setReg_reg_self, BitVec.getLsbD_xor]

/-- Settles O24, by the sum and its carry as numbers. -/
theorem addReportsTheCarry : Obligations.AddReportsTheCarry := by
  unfold Obligations.AddReportsTheCarry
  intro x y s
  exact ⟨_, (Completes.addReg x y).exec_eq, rfl,
    setResultFlag_toNat x (BitVec.toNat_add _ _) (carry_flag_toNat _ _)⟩

/-- Settles O25, by the difference and its not-borrow as numbers. -/
theorem subtractReportsNoBorrow : Obligations.SubtractReportsNoBorrow := by
  unfold Obligations.SubtractReportsNoBorrow
  intro x y s
  exact ⟨_, (Completes.sub x y).exec_eq, rfl,
    setResultFlag_toNat x (sub_toNat_add_mod _ _) (notBorrow_flag_toNat _ _)⟩

/-- Settles O26: the operands of O25 exchanged. -/
theorem reverseSubtractReportsNoBorrow : Obligations.ReverseSubtractReportsNoBorrow := by
  unfold Obligations.ReverseSubtractReportsNoBorrow
  intro x y s
  exact ⟨_, (Completes.subn x y).exec_eq, rfl,
    setResultFlag_toNat x (sub_toNat_add_mod _ _) (notBorrow_flag_toNat _ _)⟩

/-- Settles O27: both shifts act on `V[x]`; the bit shifted out is the remainder by 2, or the quotient by 128. -/
theorem shiftsReportTheBitShiftedOut : Obligations.ShiftsReportTheBitShiftedOut := by
  unfold Obligations.ShiftsReportTheBitShiftedOut
  intro x y s
  exact ⟨⟨_, (Completes.shr x y).exec_eq, rfl,
      setResultFlag_toNat x (shiftRight_one_toNat _) (shiftedOutRight_flag_toNat _)⟩,
    ⟨_, (Completes.shl x y).exec_eq, rfl,
      setResultFlag_toNat x (shiftLeft_one_toNat _) (shiftedOutLeft_flag_toNat _)⟩⟩

/-- Settles O28: whatever the byte is, the mask clears the bits where `kk` has a 0; the byte is
the supplied one when there is one. -/
theorem randomAndMasksTheSuppliedByte : Obligations.RandomAndMasksTheSuppliedByte := by
  unfold Obligations.RandomAndMasksTheSuppliedByte
  intro x kk s
  refine ⟨⟨_, (Completes.rnd x kk).exec_eq, rfl, fun k hk => ?_, fun r hr => ?_⟩, fun rnd => ?_⟩
  · rw [countDraw_reg, setReg_reg_self, BitVec.getLsbD_and, hk, Bool.and_false]
  · rw [countDraw_reg, setReg_reg_of_ne _ hr]
  · refine ⟨_, (Completes.rnd x kk).exec_eq, ?_⟩
    rw [countDraw_reg, setReg_reg_self, supplyRnd_rndByte]

end Sys2Proof.Machine
end

section
/-! SUPPORT. The range check as the rules write it, on the last address of an access, and the sum, the digits and the
block that the index and memory instructions leave (43_index_memory.md rules R121 to R126). -/

namespace Sys2Proof.Machine

variable {s t : State}

/-! ### The range check on the last address `I + k` (R46) -/

theorem accessing_of_last_in {k : Nat} (h : s.I.toNat + k ≤ 0xFFF) : s.accessing (k + 1) t = .next t :=
  accessing_in ((dataInRange_iff s _).2 (.inr h))

theorem accessing_of_last_out {k : Nat} (h : s.I.toNat + k > 0xFFF) :
    s.accessing (k + 1) t = .fault (.outOfBounds (.data (k + 1)) s.I s) := by
  have hr : ¬s.dataInRange (k + 1) = true := by
    rw [dataInRange_iff]
    omega
  exact accessing_out (Bool.eq_false_iff.2 hr)

/-! ### The sum of `I` and a register (R121) -/

theorem index_add_toNat (i : Word) (b : Byte) : (i + b.setWidth 16).toNat = (i.toNat + b.toNat) % 65536 := by
  rw [BitVec.toNat_add, BitVec.toNat_setWidth_of_le (by omega)]

/-! ### What a store leaves in memory (R123, R124) -/

/-- The three digits as numbers: each is below 256, so its byte holds it whole. -/
theorem read_writeBytes_bcdDigits_toNat (m : Memory) (a : Nat) (v : Byte) :
    ((m.writeBytes a (bcdDigits v)).read a).toNat = v.toNat / 100 ∧
    ((m.writeBytes a (bcdDigits v)).read (a + 1)).toNat = v.toNat / 10 % 10 ∧
    ((m.writeBytes a (bcdDigits v)).read (a + 2)).toNat = v.toNat % 10 := by
  have hv := v.isLt
  simp (disch := omega) [read_writeBytes_bcdDigits, Nat.mod_eq_of_lt]

theorem read_writeBytes_regBytes_reg (m : Memory) (a : Nat) (s : State) {x r : Reg} (h : r.toNat ≤ x.toNat) :
    (m.writeBytes a (s.regBytes (x.toNat + 1))).read (a + r.toNat) = s.reg r := by
  rw [read_writeBytes_regBytes, if_pos (by omega), Nat.add_sub_cancel_left, BitVec.ofNat_toNat, BitVec.setWidth_eq]

end Sys2Proof.Machine
end

section
/-! The obligations of 43_index_memory.md. -/

namespace Sys2Proof.Machine

/-- Settles O29: the word is the encoder's, and zero-extension keeps `nnn` as a number. -/
theorem loadIndexWritesI : Obligations.LoadIndexWritesI := by
  unfold Obligations.LoadIndexWritesI
  intro nnn s
  exact ⟨decode_encode (.ldI nnn), _, (Completes.ldI nnn).exec_eq, rfl, zext16_toNat nnn⟩

/-- Settles O30: with or without the flag, `I` holds the sum modulo 65536. -/
theorem addIndexFlagsTwelveBitOverflow : Obligations.AddIndexFlagsTwelveBitOverflow := by
  unfold Obligations.AddIndexFlagsTwelveBitOverflow
  intro x s
  obtain ⟨t, hexec, hframe, hreg⟩ := execAddI_next x s
  have hI : t.I = s.I + (s.reg x).setWidth 16 := congrArg State.I hframe
  refine ⟨t, hexec, ?_, ?_, hreg⟩
  · rw [hI]
    exact hframe
  · rw [hI, index_add_toNat]

/-- Settles O31: the word is the encoder's, and the address is a number reduced to 16 bits. -/
theorem fontAddressIsFiveBytesAGlyph : Obligations.FontAddressIsFiveBytesAGlyph := by
  unfold Obligations.FontAddressIsFiveBytesAGlyph
  intro x s
  exact ⟨decode_encode (.ldFont x), _, (Completes.ldFont x).exec_eq, rfl, BitVec.toNat_ofNat _ 16⟩

/-- Settles O32: the range check is on `I + 2`; the digits stand in the three bytes from `I`. -/
theorem storeBcdStoresThreeDigits : Obligations.StoreBcdStoresThreeDigits := by
  unfold Obligations.StoreBcdStoresThreeDigits
  intro x s
  refine ⟨fun hin => ?_, accessing_of_last_out⟩
  obtain ⟨hundreds, tens, units⟩ := read_writeBytes_bcdDigits_toNat s.mem s.I.toNat (s.reg x)
  exact ⟨_, accessing_of_last_in hin, rfl, hundreds, tens, units, fun a ha => read_writeBytes_out _ _ a _ ha⟩

/-- Settles O33: the range check is on `I + x`; the block of `x + 1` bytes from `I` holds the registers. -/
theorem storeRegistersStoresABlock : Obligations.StoreRegistersStoresABlock := by
  unfold Obligations.StoreRegistersStoresABlock
  intro x s
  refine ⟨fun hin => ⟨_, accessing_of_last_in hin, rfl, fun r => read_writeBytes_regBytes_reg s.mem s.I.toNat s,
    fun a ha => read_writeBytes_out _ _ a _ ?_⟩, accessing_of_last_out⟩
  rw [regBytes_length s x.isLt]
  exact ha

/-- Settles O34: the range check is on `I + x`; the load writes the registers up to `x` and nothing else. -/
theorem loadRegistersLoadsABlock : Obligations.LoadRegistersLoadsABlock := by
  unfold Obligations.LoadRegistersLoadsABlock
  intro x s
  refine ⟨fun hin => ⟨_, accessing_of_last_in hin, loadRegs_frame s _, fun r => ?_⟩, accessing_of_last_out⟩
  simp only [loadRegs_reg s x.isLt, Nat.lt_succ_iff, State.ea]

/-- Settles O35, from the store and the load: the store leaves `I`, so the load reads the bytes just stored. -/
theorem storeThenLoadRestoresRegisters : Obligations.StoreThenLoadRestoresRegisters := by
  unfold Obligations.StoreThenLoadRestoresRegisters
  intro x s W hin
  obtain ⟨t, hstore, hframe, hstored, -⟩ := (storeRegistersStoresABlock x s).1 hin
  have hI : t.I = s.I := by rw [hframe]
  obtain ⟨u, hload, -, hloaded⟩ := (loadRegistersLoadsABlock x { t with V := W }).1 (by rwa [hI])
  refine ⟨t, u, hstore, hload, fun r => ?_⟩
  rw [hloaded r]
  split
  · next hr => rw [hI, hstored r hr]
  · rfl

end Sys2Proof.Machine
end

section
/-! SUPPORT. The display through the instructions (44_display.md): a clear screen that only `Dxyn` can change, the
sprite's cells in the closed form of the statements, and the hit as a fact about cells. -/

namespace Sys2Proof.Machine

variable {s t : State} {i : Instr} {is : List Instr}

/-! ### A clear screen stays clear (R130) -/

/-- A sequence completes when its first instruction does and the rest completes after it. -/
theorem execSeq_cons_next :
    execSeq (i :: is) s = .next t ↔ ∃ u, exec i s.advance = .next u ∧ execSeq is u = .next t := by
  rw [execSeq]
  cases exec i s.advance <;> simp

/-- On a clear screen only `Dxyn` draws: `00E0` clears it once more, and no other instruction writes it. -/
theorem Completes.video_eq_clear (h : Completes s i t) (hDrw : ∀ x y n, i ≠ .drw x y n)
    (hs : s.video = Video.clear) : t.video = Video.clear := by
  by_cases hCls : i = .cls
  · subst hCls
    cases h
    rfl
  · rw [h.video_eq hCls hDrw, hs]

theorem execSeq_video_eq_clear (hDrw : ∀ i ∈ is, ∀ x y n, i ≠ .drw x y n) (hs : s.video = Video.clear)
    (h : execSeq is s = .next t) : t.video = Video.clear := by
  induction is generalizing s with
  | nil =>
    cases h
    exact hs
  | cons i is ih =>
    obtain ⟨u, hi, his⟩ := execSeq_cons_next.1 h
    obtain ⟨hiDrw, hisDrw⟩ := List.forall_mem_cons.1 hDrw
    exact ih hisDrw ((exec_next_iff.1 hi).video_eq_clear hiDrw hs) his

/-! ### The sprite's cells, counted round the grid from its start (R131, D15) -/

theorem eq_wrapColumn_iff {cx : Byte} {col : Nat} (hcol : col < 64) (c : Fin 64) :
    c = wrapColumn cx col ↔ col = (c.val + 64 - cx.toNat % 64) % 64 := by
  simp only [wrapColumn, Fin.ext_iff]
  omega

theorem eq_wrapRow_iff {cy : Byte} {row : Nat} (hrow : row < 32) (r : Fin 32) :
    r = wrapRow cy row ↔ row = (r.val + 32 - cy.toNat % 32) % 32 := by
  simp only [wrapRow, Fin.ext_iff]
  omega

/-- Of the eight pixels of a sprite row only one can lie over column `c`. -/
theorem rowCovers_iff {cx b : Byte} {c : Fin 64} {j : Nat} (hj : j = (c.val + 64 - cx.toNat % 64) % 64) :
    rowCovers cx b 8 c = true ↔ j < 8 ∧ b.getLsbD (7 - j) = true := by
  simp only [rowCovers, List.any_eq_true, List.mem_range, Bool.and_eq_true, decide_eq_true_eq]
  constructor
  · rintro ⟨col, hcol, hb, hc⟩
    obtain rfl : col = j := ((eq_wrapColumn_iff (by omega) c).1 hc).trans hj.symm
    exact ⟨hcol, hb⟩
  · rintro ⟨hlt, hb⟩
    exact ⟨j, hlt, hb, (eq_wrapColumn_iff (by omega) c).2 hj⟩

/-- Of the sprite's rows only one can lie over row `r`. -/
theorem spriteCovers_iff {m : Memory} {addr n i : Nat} {cx cy : Byte} {c : Fin 64} {r : Fin 32} (hn : n ≤ 32)
    (hi : i = (r.val + 32 - cy.toNat % 32) % 32) :
    spriteCovers m addr cx cy n c r = true ↔ i < n ∧ rowCovers cx (m.read (addr + i)) 8 c = true := by
  simp only [spriteCovers, List.any_eq_true, List.mem_range, Bool.and_eq_true, decide_eq_true_eq]
  constructor
  · rintro ⟨row, hrow, hr, hc⟩
    obtain rfl : row = i := ((eq_wrapRow_iff (by omega) r).1 hr).trans hi.symm
    exact ⟨hrow, hc⟩
  · rintro ⟨hlt, hc⟩
    exact ⟨i, hlt, (eq_wrapRow_iff (by omega) r).2 hi, hc⟩

/-- The cells that the loops toggle are those of the closed form. -/
theorem spriteCovers_eq_spriteBit (s : State) (x y : Reg) (n : Nibble) (c : Fin 64) (r : Fin 32) :
    spriteCovers s.mem (s.ea 0) (s.reg x) (s.reg y) n.toNat c r = spriteBit s x y n c r := by
  rw [Bool.eq_iff_iff, spriteCovers_iff (by omega) rfl, rowCovers_iff rfl]
  simp [spriteBit, State.ea, and_assoc]

theorem sprite_pixel (s : State) (x y : Reg) (n : Nibble) (c : Fin 64) (r : Fin 32) :
    (s.sprite x y n).1.pixel c r = (s.video.pixel c r ^^ spriteBit s x y n c r) := by
  rw [State.sprite, drawSprite_pixel _ _ _ _ (by omega), spriteCovers_eq_spriteBit]

/-- A row's hit names a cell: one that is set and that the row covers. -/
theorem rowHits_iff {cx b : Byte} {v : Video} {r : Fin 32} {k : Nat} :
    rowHits cx b v r k = true ↔ ∃ c, v.pixel c r = true ∧ rowCovers cx b k c = true := by
  simp only [rowHits, rowCovers, List.any_eq_true, Bool.and_eq_true, decide_eq_true_eq]
  constructor
  · rintro ⟨col, hcol, hb, hset⟩
    exact ⟨_, hset, col, hcol, hb, rfl⟩
  · rintro ⟨_, hset, col, hcol, hb, rfl⟩
    exact ⟨col, hcol, hb, hset⟩

theorem sprite_hit_iff (s : State) (x y : Reg) (n : Nibble) :
    (s.sprite x y n).2 = true ↔ ∃ c r, s.video.pixel c r = true ∧ spriteBit s x y n c r = true := by
  simp only [State.sprite, drawSprite_hit _ _ _ _ (show n.toNat ≤ 32 by omega), ← spriteCovers_eq_spriteBit,
    spriteCovers, List.any_eq_true, Bool.and_eq_true, decide_eq_true_eq, rowHits_iff]
  constructor
  · rintro ⟨row, hrow, c, hset, hc⟩
    exact ⟨c, _, hset, row, hrow, rfl, hc⟩
  · rintro ⟨c, _, hset, row, hrow, rfl, hc⟩
    exact ⟨row, hrow, c, hset, hc⟩

/-- A sprite is read from `I`, memory and the two coordinate registers only. -/
theorem spriteBit_congr {x y : Reg} (n : Nibble) (hI : t.I = s.I) (hmem : t.mem = s.mem) (hx : t.reg x = s.reg x)
    (hy : t.reg y = s.reg y) : spriteBit t x y n = spriteBit s x y n := by
  funext c r
  rw [spriteBit, hI, hmem, hx, hy, spriteBit]

/-! ### The range check, the flag and the screen -/

/-- The range check of a sprite, on its height as the instruction carries it (R46). -/
theorem dataInRange_nibble_iff (s : State) (n : Nibble) :
    s.dataInRange n.toNat = true ↔ n = 0#4 ∨ s.I.toNat + n.toNat - 1 ≤ 0xFFF := by
  rw [dataInRange_iff, BitVec.toNat_eq, BitVec.toNat_ofNat]

theorem flagByte_eq_one_iff (f : Bool) : flagByte f = 1#8 ↔ f = true := by
  cases f <;> decide

theorem flagByte_eq_zero_or_one (f : Bool) : flagByte f = 0#8 ∨ flagByte f = 1#8 := by
  cases f <;> decide

/-- A video buffer is its cells (R132). -/
theorem video_eq_of_pixel_eq {v w : Video} (h : ∀ c r, v.pixel c r = w.pixel c r) : v = w :=
  Vector.ext fun r hr => BitVec.eq_of_getLsbD_eq fun c hc => h ⟨c, hc⟩ ⟨r, hr⟩

end Sys2Proof.Machine
end

section
/-! The obligations of 44_display.md. -/

namespace Sys2Proof.Machine

/-- Settles O37: the screen is clear after `00E0`, and every other instruction but `Dxyn` keeps it clear. -/
theorem clearScreenClearsEveryCell : Obligations.ClearScreenClearsEveryCell := by
  unfold Obligations.ClearScreenClearsEveryCell
  refine ⟨decode_encode .cls, fun s => ⟨_, Completes.cls.exec_eq, rfl, pixel_clear⟩, fun is s t hDrw h => ?_⟩
  obtain ⟨u, hcls, his⟩ := execSeq_cons_next.1 h
  have hu : u.video = Video.clear := by
    cases exec_next_iff.1 hcls
    rfl
  rw [execSeq_video_eq_clear hDrw hu his]
  exact pixel_clear

/-- Settles O38: the loops toggle the cells of the closed form, and a cell cleared is one that was set and toggled. -/
theorem drawXorsTheSprite : Obligations.DrawXorsTheSprite := by
  unfold Obligations.DrawXorsTheSprite
  intro x y n s
  refine ⟨fun hin => ⟨_, (Completes.drw x y n ((dataInRange_nibble_iff s n).2 hin)).exec_eq, rfl, sprite_pixel s x y n,
    ?_, ?_, ?_⟩, fun hn hout => accessing_out (Bool.eq_false_iff.2 fun hr => ?_)⟩
  · rw [setVF_reg, if_pos rfl]
    exact flagByte_eq_zero_or_one _
  · rw [setVF_reg, if_pos rfl, flagByte_eq_one_iff, sprite_hit_iff]
    refine exists_congr fun c => exists_congr fun r => and_congr_right fun hset => ?_
    rw [setVF_video, setVideo_video, sprite_pixel, hset, Bool.true_xor, Bool.not_eq_false']
  · intro r hr
    rw [setVF_reg, if_neg hr, setVideo_reg]
  · obtain hzero | hin := (dataInRange_nibble_iff s n).1 hr
    · exact hn hzero
    · exact absurd hin (Nat.not_le.2 hout)

/-- Settles O39, from the single draw: the first draw writes `VF` and the screen only, and `VF` is neither coordinate,
so the second draws the same cells, and a double XOR cancels. -/
theorem doubleDrawRestoresTheScreen : Obligations.DoubleDrawRestoresTheScreen := by
  unfold Obligations.DoubleDrawRestoresTheScreen
  intro x y n s hx hy hin
  obtain ⟨t, hfirst, hframe, hpixel, -, -, hreg⟩ := (drawXorsTheSprite x y n s.advance).1 hin
  have hI : t.I = s.I := by rw [hframe, advance_I]
  have hmem : t.mem = s.mem := by rw [hframe, advance_mem]
  obtain ⟨u, hsecond, -, hpixel', -, hhit, -⟩ := (drawXorsTheSprite x y n t.advance).1 (by rwa [advance_I, hI])
  have same : spriteBit t.advance x y n = spriteBit s x y n := spriteBit_congr n hI hmem (hreg x hx) (hreg y hy)
  have drawn (c r) : t.video.pixel c r = (s.video.pixel c r ^^ spriteBit s x y n c r) := hpixel c r
  have restored : u.video = s.video := video_eq_of_pixel_eq fun c r => by
    rw [hpixel', same, advance_video, drawn, Bool.xor_assoc, Bool.xor_self, Bool.xor_false]
  refine ⟨u, execSeq_cons_next.2 ⟨t, hfirst, execSeq_cons_next.2 ⟨u, hsecond, rfl⟩⟩, restored, ?_⟩
  rw [hhit, restored]
  refine exists_congr fun c => exists_congr fun r => and_congr_left fun hclear => ?_
  rw [advance_video, drawn, hclear, Bool.false_xor]

end Sys2Proof.Machine
end

section
/-! SUPPORT. The keys as the statements read them: a number that names none, and the lowest new one (R137, R139). -/

namespace Sys2Proof.Machine

variable {s : State}

/-- A skip on a number above 15 raises its condition (D7). -/
theorem skipOnKey_out {x : Reg} (p : Bool) (h : 15 < (s.reg x).toNat) :
    s.skipOnKey x p = .fault (.outOfBounds .key ((s.reg x).setWidth 16) s) := by
  obtain ⟨k, hk, -⟩ | ⟨-, e⟩ := skipOnKey_cases s x p
  · omega
  · exact e

theorem newlyDown_eq_false_iff {k : Fin 16} :
    s.newlyDown k = false ↔ ¬(s.keypad[k] = true ∧ s.keyprev[k] = false) := by
  rw [← newlyDown_iff, Bool.not_eq_true]

/-- The lowest new key is the one found (D18). -/
theorem newKey_eq_some {k : Fin 16} (hk : s.newlyDown k = true) (hlow : ∀ j < k, s.newlyDown j = false) :
    s.newKey = some k := by
  cases h : s.newKey with
  | none => exact absurd hk (Bool.eq_false_iff.1 (newKey_none.1 h k))
  | some l =>
    obtain ⟨hl, hlow'⟩ := newKey_some h
    have lk : ¬l < k := fun hlt => Bool.eq_false_iff.1 (hlow l hlt) hl
    have kl : ¬k < l := fun hlt => Bool.eq_false_iff.1 (hlow' k hlt) hk
    rw [le_antisymm (not_lt.1 kl) (not_lt.1 lk)]

/-- A key number fits the byte that receives it. -/
theorem keyByte_toNat (k : Fin 16) : (BitVec.ofNat 8 k.val).toNat = k.val :=
  Nat.mod_eq_of_lt (by omega)

end Sys2Proof.Machine
end

section
/-! The obligations of 45_keypad_timers.md. -/

namespace Sys2Proof.Machine

/-- Settles O44, along the four ways a step ends: a completing instruction keeps each timer but for its own writer, and
a condition leaves the timers of the state before the step. -/
theorem onlyTimerWritesMoveTheTimers : Obligations.OnlyTimerWritesMoveTheTimers := by
  unfold Obligations.OnlyTimerWritesMoveTheTimers
  intro s
  obtain ⟨-, e⟩ | ⟨op, -, -, e⟩ | ⟨op, i, u, hf, hd, hu, e⟩ | ⟨op, i, g, -, -, hg, e⟩ := step_cases s <;> rw [e]
  · exact ⟨nofun, by rintro _ ⟨⟩; exact ⟨rfl, rfl⟩⟩
  · exact ⟨nofun, by rintro _ ⟨⟩; exact ⟨rfl, rfl⟩⟩
  · refine ⟨?_, nofun⟩
    rintro _ ⟨⟩
    constructor
    · intro moved
      by_contra noWrite
      exact moved (hu.DT_eq fun x hi => noWrite ⟨op, x, hf, hi ▸ hd⟩)
    · intro moved
      by_contra noWrite
      exact moved (hu.ST_eq fun x hi => noWrite ⟨op, x, hf, hi ▸ hd⟩)
  · refine ⟨nofun, ?_⟩
    rintro _ ⟨⟩
    rw [mapLeft_left, hg.left_eq]
    exact ⟨rfl, rfl⟩

/-- Settles O40: the level of the named key is the skip's test. -/
theorem keySkipsTestTheNamedKey : Obligations.KeySkipsTestTheNamedKey := by
  unfold Obligations.KeySkipsTestTheNamedKey
  refine fun x s => ⟨fun k hk => ⟨?_, ?_⟩, fun hout => ⟨skipOnKey_out true hout, skipOnKey_out false hout⟩⟩
  · rw [(Completes.skp x k hk).exec_eq, skipIf_eq beq_iff_eq]
  · rw [(Completes.sknp x k hk).exec_eq, skipIf_eq beq_iff_eq]

/-- Settles O41: the lowest new key is the one found, and with none found the instruction holds. -/
theorem waitForKeyTakesTheLowestNewKey : Obligations.WaitForKeyTakesTheLowestNewKey := by
  unfold Obligations.WaitForKeyTakesTheLowestNewKey
  refine fun x s => ⟨fun k hdown hup hlow => ?_, fun hnone => ?_⟩
  · have found : s.newKey = some k :=
      newKey_eq_some (newlyDown_iff.2 ⟨hdown, hup⟩) fun j hj => newlyDown_eq_false_iff.2 (hlow j hj)
    refine ⟨_, (Completes.ldKey_take x k found).exec_eq, rfl, ?_, fun r hr => setReg_reg_of_ne _ hr⟩
    rw [setReg_reg_self, keyByte_toNat]
  · have notFound : s.newKey = none := newKey_none.2 fun k => newlyDown_eq_false_iff.2 (hnone k)
    exact (Completes.ldKey_hold x notFound).exec_eq

/-- Settles O43, by the one way each of the three completes. -/
theorem timerInstructionsCopyATimer : Obligations.TimerInstructionsCopyATimer := by
  unfold Obligations.TimerInstructionsCopyATimer
  exact fun x s => ⟨⟨_, (Completes.ldFromDT x).exec_eq, rfl, setReg_reg s x s.DT⟩, (Completes.ldDT x).exec_eq,
    (Completes.ldST x).exec_eq⟩

end Sys2Proof.Machine
end

section
/-! SUPPORT. The conditions an execution answers, as an equation, and what each move of the host does to the state
(60_exceptions.md). -/

namespace Sys2Proof.Machine

variable {s : State} {i : Instr}

/-! ### An execution answers a condition exactly as `Raises` says (R152, R154, R156) -/

/-- An instruction that accesses bytes through `I` is one range-checked access. -/
theorem exec_eq_accessing {cnt : Nat} (hc : dataCount i = some cnt) : ∃ u, exec i s = s.accessing cnt u := by
  cases i
  case drw | ldBcd | stRegs | ldRegs =>
    obtain rfl := Option.some.inj hc
    exact ⟨_, rfl⟩
  all_goals nomatch hc

theorem Raises.exec_eq {f : Fault} (h : Raises s i f) : exec i s = .fault f := by
  cases h with
  | underflow hsp =>
    obtain ⟨hpos, -⟩ | ⟨-, e⟩ := execRet_cases s
    · omega
    · exact e
  | overflow nnn hsp =>
    obtain ⟨hroom, -⟩ | ⟨-, e⟩ := execCall_cases nnn s
    · omega
    · exact e
  | data hc hr =>
    obtain ⟨u, e⟩ := exec_eq_accessing (s := s) hc
    exact e.trans (accessing_out hr)
  | key hi hx =>
    obtain rfl | rfl := hi
    · exact skipOnKey_out true hx
    · exact skipOnKey_out false hx

/-- The relation is `exec`'s own: an execution answers a condition exactly as `Raises` says. -/
theorem exec_fault_iff {f : Fault} : exec i s = .fault f ↔ Raises s i f := by
  refine ⟨fun h => ?_, Raises.exec_eq⟩
  obtain ⟨t, e⟩ | ⟨g, hg, e⟩ := completes_or_raises i s
  · nomatch e.symm.trans h
  · obtain rfl := Host.Outcome.fault.inj (e.symm.trans h)
    exact hg

/-- `OutOfSpace` is the load's alone (R151). -/
theorem Raises.code_ne_outOfSpace {f : Fault} (h : Raises s i f) : f.code ≠ 1 := by
  cases h <;> simp [Fault.code]

theorem dataInRange_eq_false_iff {cnt : Nat} :
    s.dataInRange cnt = false ↔ 0 < cnt ∧ s.I.toNat + cnt - 1 > 0xFFF := by
  rw [← Bool.not_eq_true, dataInRange_iff]
  omega

/-! ### The host's moves (R162, R164, R170, R88, R89) -/

/-- A timer counts down and stops at 0. -/
theorem countDown_toNat (b : Byte) : (countDown b).toNat = b.toNat - 1 := by
  unfold countDown
  split
  · next h => exact BitVec.toNat_sub_of_le h
  · omega

theorem setKey_keypad_getElem (k : Fin 16) (b : Bool) (j : Fin 16) :
    (s.setKey k b).keypad[j] = if j = k then b else s.keypad[j] := by
  simp [Vector.getElem_set, Fin.ext_iff, eq_comm]

/-- A load copies the bytes, or the condition is raised with nothing changed. -/
theorem load_cases (bytes : List Byte) (s : State) :
    (bytes.length ≤ Config.progMax ∧
      load bytes s = .next (s.setMem (s.mem.writeBytes Config.progBase bytes))) ∨
    (Config.progMax < bytes.length ∧ load bytes s = .fault (.outOfSpace s)) := by
  by_cases h : bytes.length > Config.progMax
  · exact .inr ⟨h, if_pos h⟩
  · exact .inl ⟨Nat.not_lt.1 h, if_neg h⟩

/-- The program area ends where memory ends, so a load that fits writes inside memory. -/
theorem progBase_add_le_memSize {len : Nat} (h : len ≤ Config.progMax) : Config.progBase + len ≤ Config.memSize := by
  simp only [Config.progMax, Config.progBase, Config.memSize] at h ⊢
  omega

end Sys2Proof.Machine
end

section
/-! The obligations of 60_exceptions.md. -/

namespace Sys2Proof.Machine

/-- Settles O59, move by move: a load writes inside memory, a step is O51's, and the other moves touch no part of the
invariant or restore its reset values. -/
theorem everyMoveKeepsTheInvariant : Obligations.EveryMoveKeepsTheInvariant := by
  unfold Obligations.EveryMoveKeepsTheInvariant
  intro s a hs
  cases a with
  | reset => exact ⟨by rintro _ ⟨⟩; exact resetMeetsTheInvariant, nofun⟩
  | load bytes =>
    obtain ⟨hmem, hstack, hpc⟩ := hs
    obtain ⟨hfits, e⟩ | ⟨-, e⟩ := load_cases bytes s <;> rw [act, e]
    · exact ⟨by rintro _ ⟨⟩; exact ⟨wf_writeBytes hmem (progBase_add_le_memSize hfits), hstack, hpc⟩, nofun⟩
    · exact ⟨nofun, by rintro _ ⟨⟩; exact ⟨hmem, hstack, hpc⟩⟩
  | step rnd => exact stepKeepsTheInvariant (s.supplyRnd rnd) hs
  | setKey | tick => exact ⟨by rintro _ ⟨⟩; exact hs, nofun⟩

/-- Settles O52, by induction on how the state was reached; a skipped unknown opcode goes on from the state that the
condition left. -/
theorem reachableStatesMeetTheInvariant : Obligations.ReachableStatesMeetTheInvariant := by
  unfold Obligations.ReachableStatesMeetTheInvariant
  intro s hs
  induction hs with
  | reset => exact resetMeetsTheInvariant
  | move a _ hnext ih => exact (everyMoveKeepsTheInvariant _ a ih).1 _ hnext
  | skip rnd _ hfault ih => exact (everyMoveKeepsTheInvariant _ (.step rnd) ih).2 _ hfault

/-- Settles O12, along the four ways a step ends: only the failed fetch comes before the advance, and the latch comes
after every condition. -/
theorem conditionsArePrecise : Obligations.ConditionsArePrecise := by
  unfold Obligations.ConditionsArePrecise
  intro s f h
  obtain ⟨hf, e⟩ | ⟨op, hf, -, e⟩ | ⟨op, i, u, -, -, -, e⟩ | ⟨op, i, g, hf, -, hg, e⟩ := step_cases s <;>
    cases e.symm.trans h
  · have outside := fetch_none.1 hf
    exact ⟨by simp [Fault.code], fun _ => rfl, fun inside => by omega⟩
  · have inside := (fetch_some.1 hf).1
    exact ⟨by simp [Fault.code], fun outside => by omega, fun _ => rfl⟩
  · have inside := (fetch_some.1 hf).1
    rw [mapLeft_code, mapLeft_left, hg.left_eq]
    exact ⟨hg.code_ne_outOfSpace, fun outside => by omega, fun _ => rfl⟩

/-- Settles O13: the four disjuncts are the four ways an instruction raises a condition. -/
theorem instructionsRaiseExactlyTheirCondition : Obligations.InstructionsRaiseExactlyTheirCondition := by
  unfold Obligations.InstructionsRaiseExactlyTheirCondition
  intro i s f
  rw [exec_fault_iff]
  constructor
  · intro h
    cases h with
    | underflow hsp => exact .inl ⟨rfl, hsp, rfl⟩
    | overflow nnn hsp => exact .inr (.inl ⟨nnn, rfl, hsp, rfl⟩)
    | data hc hr =>
      obtain ⟨hpos, hout⟩ := dataInRange_eq_false_iff.1 hr
      exact .inr (.inr (.inl ⟨_, hc, hpos, hout, rfl⟩))
    | key hi hx => exact .inr (.inr (.inr ⟨_, hi, hx, rfl⟩))
  · rintro (⟨rfl, hsp, rfl⟩ | ⟨nnn, rfl, hsp, rfl⟩ | ⟨cnt, hc, hpos, hout, rfl⟩ | ⟨x, hi, hx, rfl⟩)
    · exact .underflow hsp
    · exact .overflow nnn hsp
    · exact .data hc (dataInRange_eq_false_iff.2 ⟨hpos, hout⟩)
    · exact .key hi hx

/-- Settles O56: the one action counts each timer down by itself. -/
theorem tickCountsBothTimersDown : Obligations.TickCountsBothTimersDown := by
  unfold Obligations.TickCountsBothTimersDown
  exact fun s => ⟨s.tick, rfl, rfl, countDown_toNat s.DT, countDown_toNat s.ST⟩

/-- Settles O57: the write sets the one cell of the keypad. -/
theorem setKeyWritesOneCell : Obligations.SetKeyWritesOneCell := by
  unfold Obligations.SetKeyWritesOneCell
  exact fun k b s => ⟨s.setKey k b, rfl, rfl, setKey_keypad_getElem k b⟩

end Sys2Proof.Machine
end

section
/-! SUPPORT. Memory after reset, byte by byte, and the run of a host that skips the unknown opcodes of zeroed memory
(70_reset_and_hazards.md). -/

namespace Sys2Proof.Machine

variable {s t : State}

/-! ### Memory after reset (R26, R27) -/

theorem reset_mem_read (a : Nat) : State.reset.mem.read a = resetByte a := rfl

theorem fontTable_length : fontTable.length = 80 := by decide

theorem resetByte_fontBase_add {i : Nat} {b : Byte} (h : fontTable[i]? = some b) : resetByte (fontBase + i) = b := by
  rw [resetByte, if_pos (Nat.le_add_right _ _), Nat.add_sub_cancel_left, List.getD_eq_getElem?_getD, h,
    Option.getD_some]

theorem resetByte_of_outside_font {a : Nat} (h : a < fontBase ∨ fontBase + 80 ≤ a) : resetByte a = 0#8 := by
  obtain below | above := h
  · exact if_neg (Nat.not_le.2 below)
  · have pastEnd : fontTable.length ≤ a - fontBase := by rw [fontTable_length]; omega
    rw [resetByte, List.getD_eq_default _ _ pastEnd, ite_self]

/-! ### Two zero bytes are the unknown opcode 0 (R66, R153) -/

theorem decode_zero : decode 0#16 = none := by decide

theorem step_of_zero_bytes (hpc : s.pc.toNat < 0xFFF) (hhi : s.mem.read s.pc.toNat = 0#8)
    (hlo : s.mem.read (s.pc.toNat + 1) = 0#8) : step s = .fault (.unknownOpcode 0#16 s.advance.latch) := by
  have hfetch : fetch s = some 0#16 := fetch_some.2 ⟨hpc, by rw [hhi, hlo]; rfl⟩
  exact step_of_decode_none hfetch decode_zero

/-! ### The skipping host (R153) -/

theorem runSkipping_succ_of_unknownOpcode {op : Word} (h : step s = .fault (.unknownOpcode op t)) (k : Nat) :
    runSkipping (k + 1) s = runSkipping k t := by
  rw [runSkipping, h]; rfl

theorem runSkipping_succ_of_fatal {f : Fault} (h : step s = .fault f) (hf : f.fatal = true) (k : Nat) :
    runSkipping (k + 1) s = .fault f := by
  rw [runSkipping, h]
  cases f
  case unknownOpcode => nomatch hf
  all_goals rfl

/-! ### The walk from reset with nothing loaded (R174) -/

/-- The state after reset, `pc` moved on by `k` words. -/
def resetWalk (k : Nat) : State := { State.reset with pc := BitVec.ofNat 16 (0x200 + 2 * k) }

theorem resetWalk_pc_toNat {k : Nat} (hk : k ≤ 1792) : (resetWalk k).pc.toNat = 0x200 + 2 * k :=
  Nat.mod_eq_of_lt (by omega)

/-- An advance goes one word on, and the latch of a state with no key down changes nothing. -/
theorem resetWalk_advance_latch (k : Nat) : (resetWalk k).advance.latch = resetWalk (k + 1) :=
  congrArg State.reset.setPc (BitVec.ofNat_add_ofNat (0x200 + 2 * k) 2)

/-- The font table ends below 0x200, so the walk meets zeros only. -/
theorem resetWalk_mem_read {k a : Nat} (ha : 0x200 ≤ a) : (resetWalk k).mem.read a = 0#8 :=
  (reset_mem_read a).trans (resetByte_of_outside_font (.inr (Nat.le_trans (by decide) ha)))

theorem step_resetWalk {k : Nat} (hk : k < 1792) :
    step (resetWalk k) = .fault (.unknownOpcode 0#16 (resetWalk (k + 1))) := by
  have hpc := resetWalk_pc_toNat hk.le
  rw [← resetWalk_advance_latch]
  exact step_of_zero_bytes (by omega) (resetWalk_mem_read (by omega)) (resetWalk_mem_read (by omega))

/-- At 0x1000 the fetch fails (R81). -/
theorem step_resetWalk_end : step (resetWalk 1792) = .fault (.outOfBounds .fetch 0x1000#16 (resetWalk 1792)) :=
  step_of_fetch_none (fetch_none.2 (by decide))

/-- Within memory the skipping host's first `k` steps walk `k` words on. -/
theorem runSkipping_add_resetWalk (k n : Nat) {j : Nat} (hk : j + k ≤ 1792) :
    runSkipping (k + n) (resetWalk j) = runSkipping n (resetWalk (j + k)) := by
  induction k generalizing j with
  | zero => rw [Nat.zero_add, Nat.add_zero]
  | succ k ih =>
    calc runSkipping (k + 1 + n) (resetWalk j)
      _ = runSkipping (k + n + 1) (resetWalk j) := by rw [Nat.add_right_comm]
      _ = runSkipping (k + n) (resetWalk (j + 1)) := runSkipping_succ_of_unknownOpcode (step_resetWalk (by omega)) _
      _ = runSkipping n (resetWalk (j + 1 + k)) := ih (by omega)
      _ = runSkipping n (resetWalk (j + (k + 1))) := by rw [Nat.add_assoc, Nat.add_comm 1]

end Sys2Proof.Machine
end

section
/-! The obligations of 70_reset_and_hazards.md. -/

namespace Sys2Proof.Machine

/-- Settles O53: memory lists no cell after reset, so it reads as the font table and zeros. -/
theorem resetLeavesTheListedValues : Obligations.ResetLeavesTheListedValues := by
  unfold Obligations.ResetLeavesTheListedValues
  have hreg : ∀ r : Reg, State.reset.reg r = 0#8 := fun _ => Vector.getElem_replicate _
  have hstack : ∀ k : Fin 16, State.reset.stack[k] = 0#16 := fun _ => Vector.getElem_replicate _
  have hkeys : ∀ k : Fin 16, State.reset.keypad[k] = false ∧ State.reset.keyprev[k] = false :=
    fun _ => ⟨Vector.getElem_replicate _, Vector.getElem_replicate _⟩
  exact ⟨hreg, rfl, rfl, rfl, hstack, rfl, rfl, hkeys, pixel_clear, fontTable_length, by decide,
    fun _ _ h => (reset_mem_read _).trans (resetByte_fontBase_add h),
    fun _ h => (reset_mem_read _).trans (resetByte_of_outside_font h), fun _ => rfl⟩

/-- Settles O58: the walk of 1792 words ends at 0x1000, where the fetch fails. -/
theorem emptyMemoryRunsOffTheEnd : Obligations.EmptyMemoryRunsOffTheEnd := by
  unfold Obligations.EmptyMemoryRunsOffTheEnd
  have walk (k n : Nat) (hk : k ≤ 1792) : runSkipping (k + n) State.reset = runSkipping n (resetWalk k) := by
    have h := runSkipping_add_resetWalk k n (j := 0) (by omega)
    rwa [Nat.zero_add] at h
  refine ⟨fun s hpc => step_of_zero_bytes hpc, fun k hk => walk k 0 hk, fun k hk => ?_, ?_⟩
  · have next : 0x200 + 2 * (k + 1) = 0x202 + 2 * k := by omega
    rw [← next]
    exact step_resetWalk hk
  · exact (walk 1792 1 le_rfl).trans (runSkipping_succ_of_fatal step_resetWalk_end rfl 0)

end Sys2Proof.Machine
end
